-- ==== Sys2Proof/Word.lean ====
section
/-! DEFINITION. The words of EPDQ: the 32-bit register and command word (00_scope.md R5, `REG_W`), the byte of
memory (R7) and the 16-bit slot of a dither line buffer (R5, `SLOT_W`). -/

namespace Sys2Proof

/-- A register, a bus word or a command word: 32 bits (00_scope.md R5, `REG_W`). -/
abbrev Word := BitVec 32

/-- A byte of memory: 8 bits (00_scope.md R7). -/
abbrev Byte := BitVec 8

/-- One slot of an error line buffer: a signed 16-bit number (00_scope.md R5, `SLOT_W`; 10_state.md R42).
Addition on it is `wrap16` of R8 by construction. -/
abbrev Slot := BitVec 16

end Sys2Proof
end

