-- ==== Sys2Proof/Config.lean ====
section
/-! DEFINITION. What an implementation of EPDQ fixes (the two OPEN parameters of 00_scope.md R5) and the free values
of the model: constants with no body, about which nothing can be proved. -/

namespace Sys2Proof.Config

/-- The OPEN parameters of 00_scope.md R5: `MEM_SIZE`, the number of bytes the memory port reaches
(`1 <= MEM_SIZE <= 2^32`), and `MAX_W`, the number of image columns the dither line buffers hold
(`1 <= MAX_W <= 65535`). A machine carries its own pair in `State.params`, and no step changes it. -/
structure Params where
  memSize : Nat
  maxW    : Nat
  deriving DecidableEq, Repr

/-- The ranges R5 gives the OPEN parameters. -/
abbrev Params.Legal (p : Params) : Prop :=
  1 ≤ p.memSize ∧ p.memSize ≤ 2 ^ 32 ∧ 1 ≤ p.maxW ∧ p.maxW ≤ 65535

/-- The pair that `State.reset` carries: the values every vector of 95_test_vectors.md uses.
DESIGN CHOICE (log entry 1): the spec leaves both OPEN. Unsafe for a claim about `State.reset` alone; a statement
over every state covers every pair. -/
def params : Params := { memSize := 0x10000, maxW := 1024 }

/-- A free byte for each value of `State.fresh`: what 93_implementation_defined.md calls `any value` for a byte of
memory (I6, I9, I23; log entries 8 and 9). -/
opaque freeByte : Nat → Byte

/-- A free word for each value of `State.fresh`: a register read while reset is asserted (I8), the palette after a
reset (I4) and the RESULT of a raced SAMPLE (I6) (log entries 8, 10 and 11). -/
opaque freeWord : Nat → Word

end Sys2Proof.Config
end

