-- ==== Sys2Proof/Machine/State.lean ====
section
/-! DEFINITION. The state of EPDQ as plain data (10_state.md), the reasons a step can stop, and the state right after
a power-on reset (10_state.md R47, 70_reset_and_hazards.md R340 to R344). -/

namespace Sys2Proof.Machine

open Sys2Proof.Config (Params)

/-- Memory (20_memory.md R60): the bytes that differ from what an unlisted address reads as, addresses rising. -/
abbrev Mem := List Host.Cell

/-- The registers of the port (10_state.md R20) but STATUS, each holding exactly the bits the spec implements: a
reserved bit reads 0 and ignores writes (R44), so it has no storage. ID is a constant (R22) and CMD holds no state
(R25); STATUS is `Status`. -/
structure Regs where
  /-- CTRL.MODE, bits `[2:0]` (10_state.md R23). -/
  mode : BitVec 3
  /-- CTRL.TOPDOWN, bit 3 (10_state.md R23). -/
  topdown : Bool
  /-- CTRL.IRQ_EN, bit 4 (10_state.md R23). -/
  irqEn : Bool
  /-- ERR_CMD (10_state.md R26). -/
  errCmd : Word
  /-- RESULT (10_state.md R30). -/
  result : Word
  /-- DST_PITCH, bits `[16:0]` (10_state.md R27). -/
  dstPitch : BitVec 17
  /-- PLANE_BYTES (10_state.md R28). -/
  planeBytes : Word
  /-- PLANES, bits `[1:0]` (10_state.md R29). -/
  planes : BitVec 2
  /-- SRC_BASE (10_state.md R34). -/
  srcBase : Word
  /-- SRC_WIDTH, bits `[15:0]` (10_state.md R31). -/
  srcWidth : BitVec 16
  /-- SRC_HEIGHT, bits `[15:0]` (10_state.md R31). -/
  srcHeight : BitVec 16
  /-- SRC_BPP, bits `[5:0]` (10_state.md R32). -/
  srcBpp : BitVec 6
  /-- SRC_PITCH (10_state.md R33). -/
  srcPitch : Word
  /-- DST0_BASE (10_state.md R35). -/
  dst0Base : Word
  /-- DST1_BASE (10_state.md R35). -/
  dst1Base : Word
  /-- SCRATCH_BASE (10_state.md R36). -/
  scratchBase : Word
  /-- THR_GREY, bits `[7:0]` (10_state.md R37). -/
  thrGrey : Byte
  /-- THR3.LUMA, bits `[7:0]` (10_state.md R38). -/
  thr3Luma : Byte
  /-- THR3.CHAN, bits `[15:8]` (10_state.md R38). -/
  thr3Chan : Byte
  /-- THR4.LUMA, bits `[7:0]` (10_state.md R38). -/
  thr4Luma : Byte
  /-- THR4.CHAN, bits `[15:8]` (10_state.md R38). -/
  thr4Chan : Byte
  /-- MARGIN.Y, bits `[7:0]` (10_state.md R39). -/
  marginY : Byte
  /-- MARGIN.RB, bits `[15:8]` (10_state.md R39). -/
  marginRB : Byte
  /-- MARGIN.RG, bits `[23:16]` (10_state.md R39). -/
  marginRG : Byte
  /-- COLOR_RED, bits `[23:0]` (10_state.md R41). -/
  colorRed : BitVec 24
  /-- COLOR_YEL, bits `[23:0]` (10_state.md R41). -/
  colorYel : BitVec 24
  /-- PAL[0] to PAL[255], bits `[23:0]` each (10_state.md R40). -/
  pal : Vector (BitVec 24) 256
  deriving DecidableEq, Repr

/-- The fields of STATUS (10_state.md R24); its reserved bits read 0. -/
structure Status where
  /-- BUSY, bit 0. -/
  busy : Bool
  /-- DONE, bit 1. -/
  done : Bool
  /-- ERR, bit 2. -/
  err : Bool
  /-- OVERRUN, bit 3. -/
  overrun : Bool
  /-- GEOM_SKIP, bit 4. -/
  geomSkip : Bool
  /-- ERR_CODE, bits `[11:8]`. -/
  errCode : BitVec 4
  deriving DecidableEq, Repr

/-- The two line buffers of one error channel, `MAX_W + 2` slots each (10_state.md R42). -/
structure Channel where
  /-- `Ec_cur`. -/
  cur : List Slot
  /-- `Ec_nxt`. -/
  nxt : List Slot
  deriving DecidableEq, Repr

/-- The engine's position inside a running command (10_state.md R21). No port reads it and it does not survive the
end of the command: nothing of the model reads it, and completion puts it at its idle value (log entry 20). -/
structure Cursor where
  /-- The current plane. -/
  plane : Nat
  /-- The current row. -/
  row : Nat
  /-- The current column, or byte, of the row. -/
  col : Nat
  /-- The row-swap counter of a geometry command. -/
  swap : Nat
  deriving DecidableEq, Repr

/-- The internal state no port reads (10_state.md R21, R42, R43). -/
structure Engine where
  /-- Error channel 0: luma for DGREY, red for DCOLOR (10_state.md R42). -/
  ch0 : Channel
  /-- Error channel 1: green (10_state.md R42). -/
  ch1 : Channel
  /-- Error channel 2: blue (10_state.md R42). -/
  ch2 : Channel
  /-- The packer's shift accumulator `ACC` (10_state.md R43). -/
  acc : Byte
  /-- The packer's bit counter `NB`, 0 to 7 (10_state.md R43). -/
  nb : Nat
  /-- The packer's write address `addr` (44_packer.md R222). -/
  addr : Nat
  /-- The position inside the running command (10_state.md R21). -/
  cursor : Cursor
  deriving DecidableEq, Repr

/-- How many bits a host register access moves. EPDQ's port takes whole 32-bit words only (20_memory.md R68). -/
inductive AccessWidth where
  | byte
  | half
  | word
  deriving DecidableEq, Repr

/-- What the host, or the platform, does next (00_scope.md R4; 30_encoding.md R98; 70_reset_and_hazards.md R340). -/
inductive HostEvent where
  /-- The host writes `value` to the register port at byte offset `offset` (10_state.md R20). -/
  | regWrite (offset : BitVec 11) (width : AccessWidth) (value : Word)
  /-- The host reads the register port at byte offset `offset` (10_state.md R20). -/
  | regRead (offset : BitVec 11) (width : AccessWidth)
  /-- The host writes a byte of memory by its own means (20_memory.md R60). -/
  | memWrite (address : Word) (value : Byte)
  /-- The host reads a byte of memory by its own means (20_memory.md R60). -/
  | memRead (address : Word)
  /-- The platform asserts the reset input (70_reset_and_hazards.md R340). -/
  | assertReset
  /-- The platform releases the reset input (70_reset_and_hazards.md R340). -/
  | releaseReset
  /-- The host does nothing until the engine has run (the `wait` of 30_encoding.md R98; log entry 7). -/
  | engineTurn
  deriving DecidableEq, Repr

/-- The state of EPDQ and of its interface. -/
structure State where
  /-- `MEM_SIZE` and `MAX_W` of this machine (00_scope.md R5). No step changes them. -/
  params : Params
  /-- The registers (10_state.md R20). -/
  regs : Regs
  /-- STATUS (10_state.md R24). -/
  status : Status
  /-- The snapshot of the accepted command word (40_command.md R122); its value matters only while BUSY is 1. -/
  cmdWord : Word
  /-- Memory (20_memory.md R60). -/
  mem : Mem
  /-- The internal state (10_state.md R21, R42, R43). -/
  eng : Engine
  /-- The reset input is asserted (70_reset_and_hazards.md R340). -/
  inReset : Bool
  /-- The host has broken 20_memory.md R75 since the running command was accepted. The model's own field. -/
  raced : Bool
  /-- The host's pending actions, next one first. The model's own field (log entry 7). -/
  inputs : List HostEvent
  /-- What the host's last read returned. The model's own field (log entry 14). -/
  readData : Word
  /-- The number of free values used so far. The model's own field (log entry 15). -/
  fresh : Nat
  deriving DecidableEq, Repr

/-- Why the machine stops with a fault. -/
inductive Fault where
  /-- The host accessed a byte of memory at or past `MEM_SIZE`, which does not exist (20_memory.md R60). Raised by the
  host's own memory accesses only; no command raises it (20_memory.md R71). Safe: the model stops. -/
  | noSuchAddress (address : Word)
  deriving DecidableEq, Repr

/-- Why the machine refuses an action. -/
inductive Refusal where
  /-- The instruction has no meaning yet. Raised by a refused arm of `exec` only; no arm is refused. Safe. -/
  | notModelled (mnemonic : String)
  /-- A host register access that is narrower than 32 bits or misaligned: "a model refuses it and the spec gives it no
  meaning" (20_memory.md R68; 93_implementation_defined.md I7). Raised by the host's register accesses. Safe. -/
  | badPortAccess (offset : BitVec 11) (width : AccessWidth)
  deriving DecidableEq, Repr

/-- The registers after reset (10_state.md R47). The palette is "unspecified" there; its value here is a
DESIGN CHOICE (log entry 3), unsafe. -/
def Regs.reset : Regs where
  mode := 0
  topdown := false
  irqEn := false
  errCmd := 0
  result := 0
  dstPitch := 0
  planeBytes := 0
  planes := 0
  srcBase := 0
  srcWidth := 0
  srcHeight := 0
  srcBpp := 0
  srcPitch := 0
  dst0Base := 0
  dst1Base := 0
  scratchBase := 0
  thrGrey := 100
  thr3Luma := 100
  thr3Chan := 80
  thr4Luma := 90
  thr4Chan := 80
  marginY := 32
  marginRB := 32
  marginRG := 70
  colorRed := 0xFF0000
  colorYel := 0xFFFF00
  pal := Vector.replicate 256 0

/-- STATUS after reset: idle, no DONE, no error (10_state.md R47). -/
def Status.reset : Status where
  busy := false
  done := false
  err := false
  overrun := false
  geomSkip := false
  errCode := 0

/-- An error channel of `MAX_W + 2` zero slots (43_dither.md R190). -/
def Channel.zero (maxW : Nat) : Channel where
  cur := List.replicate (maxW + 2) 0
  nxt := List.replicate (maxW + 2) 0

/-- The cursor between commands (log entry 20). -/
def Cursor.idle : Cursor := { plane := 0, row := 0, col := 0, swap := 0 }

/-- The internal state after power-on: "unspecified" (10_state.md R47), and never observable
(93_implementation_defined.md I5). DESIGN CHOICE (log entry 4): zero. -/
def Engine.reset (maxW : Nat) : Engine where
  ch0 := Channel.zero maxW
  ch1 := Channel.zero maxW
  ch2 := Channel.zero maxW
  acc := 0
  nb := 0
  addr := 0
  cursor := Cursor.idle

/-- A machine with the parameters `p` right after power-on (70_reset_and_hazards.md R340, R344). -/
def State.powerOn (p : Params) : State where
  params := p
  regs := Regs.reset
  status := Status.reset
  cmdWord := 0
  mem := []
  eng := Engine.reset p.maxW
  inReset := false
  raced := false
  inputs := []
  readData := 0
  fresh := 0

/-- The machine right after reset (10_state.md R47), with the parameters of `Config.params`. -/
def State.reset : State := State.powerOn Config.params

end Sys2Proof.Machine
end

