-- ==== Sys2Proof/Machine/Ops.lean ====
section
/-! DEFINITION. The named operations over memory and the internal state, the loop of the pseudocode, and how a command
ends: with an error (EPDQ's exception, 60_exceptions.md R300) or by completing (40_command.md R126). -/

namespace Sys2Proof.Machine

open Sys2Proof.Config (Params)

/-! ## Memory -/

/-- What a byte that memory does not list reads as. DESIGN CHOICE (log entry 5), unsafe: the spec gives RAM no
contents at power-on; 95_test_vectors.md says "Memory bytes not listed are 0". -/
def Mem.fill : Byte := 0

/-- `MemRead(a, 1)` (00_scope.md R9, 20_memory.md R63). -/
def Mem.read : Mem → Nat → Byte
  | [], _ => Mem.fill
  | c :: m, a => if c.1 = a then c.2 else Mem.read m a

/-- Puts a cell where the rising order of addresses wants it. -/
def Mem.insert (c : Host.Cell) : Mem → Mem
  | [] => [c]
  | d :: m => if c.1 < d.1 then c :: d :: m else d :: Mem.insert c m

/-- The memory with no entry for address `a`. -/
def Mem.erase (m : Mem) (a : Nat) : Mem := m.filter fun c => c.1 != a

/-- `MemWrite(a, 1, v)` (00_scope.md R9, 20_memory.md R63). The result is canonical again: a byte equal to what an
unlisted byte reads as is not listed. -/
def Mem.write (m : Mem) (a : Nat) (v : Byte) : Mem :=
  if v = Mem.fill then Mem.erase m a else Mem.insert (a, v) (Mem.erase m a)

/-- The canonical form: addresses strictly rising, and no entry equal to what an unlisted address reads as. -/
abbrev Mem.wf (m : Mem) : Prop :=
  m.Pairwise (fun c d => c.1 < d.1) ∧ ∀ c ∈ m, c.2 ≠ Mem.fill

/-- Memory lists no byte at or past `MEM_SIZE` (20_memory.md R60). -/
abbrev Mem.within (m : Mem) (memSize : Nat) : Prop := ∀ c ∈ m, c.1 < memSize

/-! ## The loop of the pseudocode -/

/-- `for i in 0 .. n-1: x <- body i x` (00_scope.md R9). -/
def forUpto {α : Type} : Nat → (Nat → α → α) → α → α
  | 0, _, x => x
  | n + 1, body, x => body n (forUpto n body x)

/-- `ceil_div(a, b)` (00_scope.md R8). -/
def ceilDiv (a b : Nat) : Nat := (a + b - 1) / b

/-- `a >> n` on an integer: floor(a / 2^n), the arithmetic shift (00_scope.md R8). -/
def asr (a : Int) (n : Nat) : Int := a / 2 ^ n

/-- `clamp(v, lo, hi)` (00_scope.md R8). -/
def clamp (v lo hi : Int) : Int := if v < lo then lo else if hi < v then hi else v

/-! ## What a command works on -/

/-- What the body of a command reads and writes beside the registers, which hold still while it runs
(10_state.md R45): memory and the internal state. -/
structure Work where
  mem : Mem
  eng : Engine
  deriving DecidableEq, Repr

/-- `MemWrite(a, 1, v)` by the engine. -/
def Work.write (w : Work) (a : Nat) (v : Byte) : Work := { w with mem := Mem.write w.mem a v }

/-- `MemRead(a, 1)` by the engine. -/
def Work.read (w : Work) (a : Nat) : Byte := Mem.read w.mem a

/-- The engine works on plane `p` (10_state.md R21). -/
def Work.atPlane (w : Work) (p : Nat) : Work :=
  { w with eng := { w.eng with cursor := { w.eng.cursor with plane := p } } }

/-- The engine works on row `y` (10_state.md R21). -/
def Work.atRow (w : Work) (y : Nat) : Work :=
  { w with eng := { w.eng with cursor := { w.eng.cursor with row := y } } }

/-- The engine works on column, or byte of the row, `x` (10_state.md R21). -/
def Work.atCol (w : Work) (x : Nat) : Work :=
  { w with eng := { w.eng with cursor := { w.eng.cursor with col := x } } }

/-- The engine's row-swap counter is `i` (10_state.md R21). -/
def Work.atSwap (w : Work) (i : Nat) : Work :=
  { w with eng := { w.eng with cursor := { w.eng.cursor with swap := i } } }

/-- A loop over the planes of a command. -/
def forPlanes (n : Nat) (body : Nat → Work → Work) (w : Work) : Work :=
  forUpto n (fun p w => body p (w.atPlane p)) w

/-- A loop over rows, top first. -/
def forRows (n : Nat) (body : Nat → Work → Work) (w : Work) : Work :=
  forUpto n (fun y w => body y (w.atRow y)) w

/-- A loop over the columns, or the bytes, of a row, left first. -/
def forCols (n : Nat) (body : Nat → Work → Work) (w : Work) : Work :=
  forUpto n (fun x w => body x (w.atCol x)) w

/-- A loop over pairs of rows to swap. -/
def forSwaps (n : Nat) (body : Nat → Work → Work) (w : Work) : Work :=
  forUpto n (fun i w => body i (w.atSwap i)) w

/-- Exchanges the bytes at `a` and `c` as the geometry pseudocode does: both reads, then the write at `a`, then the
write at `c` (45_geometry.md R251, R253, R255), each byte passed through `f`. -/
def Work.swapBytes (f : Byte → Byte) (w : Work) (a c : Nat) : Work :=
  let t := w.read a
  let u := w.read c
  (w.write a (f u)).write c (f t)

/-- What a command's body works on, of a state. -/
def State.work (s : State) : Work := { mem := s.mem, eng := s.eng }

/-- Runs a body on the memory and the internal state; nothing else changes. -/
def State.runWork (body : Params → Regs → Work → Work) (s : State) : State :=
  let w := body s.params s.regs s.work
  { s with mem := w.mem, eng := w.eng }

/-! ## The error mechanism and completion -/

/-- The error codes of 60_exceptions.md R301. -/
inductive ErrCode where
  | illegalCommand
  | invalidSource
  | badPitch
  | unsupportedConfig
  | widthLimit
  | coordRange
  | busError
  | overlap
  deriving DecidableEq, Repr

/-- The number of an error as STATUS.ERR_CODE holds it (60_exceptions.md R301). -/
def ErrCode.code : ErrCode → BitVec 4
  | .illegalCommand => 1
  | .invalidSource => 2
  | .badPitch => 3
  | .unsupportedConfig => 4
  | .widthLimit => 5
  | .coordRange => 6
  | .busError => 7
  | .overlap => 8

/-- `raise Error(code, info)`: EPDQ's taking of an exception (60_exceptions.md R300, R317; 40_command.md R127).
The accepted command word goes to ERR_CMD, the code and the error to STATUS, the command ends; "Nothing else
changes". -/
def raiseError (e : ErrCode) (s : State) : State :=
  { s with
    regs := { s.regs with errCmd := s.cmdWord }
    status := { s.status with err := true, errCode := e.code, busy := false, done := true } }

/-- The host's acknowledgement, EPDQ's return from an exception (60_exceptions.md R312, R317): a write of `v` to
STATUS clears each W1C field whose bit of `v` is 1, ERR_CODE with ERR (10_state.md R24). -/
def acknowledge (v : Word) (s : State) : State :=
  { s with
    status :=
      { s.status with
        done := s.status.done && !v.getLsbD 1
        err := s.status.err && !v.getLsbD 2
        errCode := if v.getLsbD 2 then 0 else s.status.errCode
        overrun := s.status.overrun && !v.getLsbD 3
        geomSkip := s.status.geomSkip && !v.getLsbD 4 } }

/-- The internal state that does not survive a command, at its idle value: the cursor (10_state.md R21) and the packer
(R43). The line buffers keep their contents (R42). -/
def Engine.endCommand (g : Engine) : Engine := { g with acc := 0, nb := 0, addr := 0, cursor := Cursor.idle }

/-- Completion of a command that passed its checks (40_command.md R126): BUSY falls and DONE rises together with the
command's register writes, which `s` already holds. -/
def complete (s : State) : State :=
  { s with
    status := { s.status with busy := false, done := true }
    eng := s.eng.endCommand }

/-- Acceptance of the command word `w` (40_command.md R122): BUSY rises, DONE falls, the word is kept; OVERRUN and
GEOM_SKIP keep their values. -/
def accept (w : Word) (s : State) : State :=
  { s with
    status := { s.status with busy := true, done := false }
    cmdWord := w
    raced := false }

end Sys2Proof.Machine
end

