-- ==== Sys2Proof/Machine/Flags.lean ====
section
/-! DEFINITION. STATUS as a word and the flags the engine sets (10_state.md R24), and the interrupt output
(60_exceptions.md R315). -/

namespace Sys2Proof.Machine

/-- One bit as a word with that bit at position 0. -/
def bitWord (b : Bool) : Word := if b then 1 else 0

/-- STATUS as the host reads it: the fields of 10_state.md R24, every reserved bit 0. -/
def Status.toWord (t : Status) : Word :=
  bitWord t.busy ||| (bitWord t.done <<< 1) ||| (bitWord t.err <<< 2) ||| (bitWord t.overrun <<< 3)
    ||| (bitWord t.geomSkip <<< 4) ||| (t.errCode.setWidth 32 <<< 8)

/-- OVERRUN <- 1, and nothing else (60_exceptions.md R314). -/
def setOverrun (s : State) : State := { s with status := { s.status with overrun := true } }

/-- GEOM_SKIP <- 1 (45_geometry.md R253, R260). -/
def setGeomSkip (s : State) : State := { s with status := { s.status with geomSkip := true } }

/-- The interrupt output: `IRQ = CTRL.IRQ_EN and STATUS.DONE` (60_exceptions.md R315). -/
def irq (s : State) : Bool := s.regs.irqEn && s.status.done

end Sys2Proof.Machine
end

