-- ==== Sys2Proof/Machine/Operands.lean ====
section
/-! DEFINITION. What the registers and the pixel bytes mean as operands: colours, modes, bit depths (10_state.md), the
buffer layouts (20_memory.md R65 to R69), the Pixel Sampler (41_sampler.md) and the nibble access of 45_geometry.md
R254. -/

namespace Sys2Proof.Machine

/-! ## Colours -/

/-- A colour: red, green and blue, 8 bits each. -/
structure Rgb where
  r : Byte
  g : Byte
  b : Byte
  deriving DecidableEq, Repr

/-- The colour a PAL, COLOR_RED or COLOR_YEL register holds: red `[23:16]`, green `[15:8]`, blue `[7:0]`
(10_state.md R40, R41). -/
def rgbOf (v : BitVec 24) : Rgb :=
  { r := v.extractLsb' 16 8, g := v.extractLsb' 8 8, b := v.extractLsb' 0 8 }

/-- RESULT after SAMPLE: `(r << 16) | (g << 8) | b` (41_sampler.md R147, 10_state.md R30). -/
def Rgb.toWord (c : Rgb) : Word := ((0#8 ++ c.r : BitVec 16) ++ c.g : BitVec 24) ++ c.b

/-- Black, `(0,0,0)` (10_state.md R41). -/
def Rgb.black : Rgb := { r := 0, g := 0, b := 0 }

/-- White, `(255,255,255)` (10_state.md R41). -/
def Rgb.white : Rgb := { r := 255, g := 255, b := 255 }

/-! ## Modes and bit depths -/

/-- The five output modes (00_scope.md R6). -/
inductive Mode where
  | binary
  | bwr
  | bwy
  | bwyr
  | gray4
  deriving DecidableEq, Repr

/-- CTRL.MODE: 0 to 4 name a mode, 5 to 7 are reserved (10_state.md R23). -/
def modeOf (v : BitVec 3) : Option Mode :=
  match v.toNat with
  | 0 => some .binary
  | 1 => some .bwr
  | 2 => some .bwy
  | 3 => some .bwyr
  | 4 => some .gray4
  | _ => none

/-- The source bit depths EPDQ accepts (00_scope.md R5, `BPP_SET`). -/
inductive Bpp where
  | b1
  | b4
  | b8
  | b24
  | b32
  deriving DecidableEq, Repr

/-- SRC_BPP: 1, 4, 8, 24 and 32 are legal (10_state.md R32). -/
def bppOf (v : BitVec 6) : Option Bpp :=
  match v.toNat with
  | 1 => some .b1
  | 4 => some .b4
  | 8 => some .b8
  | 24 => some .b24
  | 32 => some .b32
  | _ => none

/-- `W = SRC_WIDTH` (00_scope.md R10). -/
def Regs.width (r : Regs) : Nat := r.srcWidth.toNat

/-- `H = SRC_HEIGHT` (00_scope.md R10). -/
def Regs.height (r : Regs) : Nat := r.srcHeight.toNat

/-- `SRC_PITCH` as a number. -/
def Regs.pitch (r : Regs) : Nat := r.srcPitch.toNat

/-- `SRC_BASE` as an address. -/
def Regs.base (r : Regs) : Nat := r.srcBase.toNat

/-! ## Buffer layout -/

/-- `MinPitch(W, b)`: ceil(W*b/8) rounded up to a multiple of 4 (20_memory.md R67). -/
def minPitch (w b : Nat) : Nat := (w * b + 31) / 32 * 4

/-- `PitchOK` (20_memory.md R67). -/
def pitchOk (r : Regs) : Bool :=
  r.pitch % 4 == 0 && decide (minPitch r.width r.srcBpp.toNat ≤ r.pitch)

/-- `s(y)`: the storage row of image row `y` in a buffer of `h` rows (20_memory.md R66). -/
def storageRow (topdown : Bool) (h y : Nat) : Nat := if topdown then y else h - 1 - y

/-- `RowAddr(k)`: where storage row `k` of the source starts (20_memory.md R65). -/
def rowAddr (r : Regs) (k : Nat) : Nat := r.base + k * r.pitch

/-- Where image row `y` of the source starts: `SRC_BASE + s(y) * SRC_PITCH` (41_sampler.md R140). -/
def imageRowAddr (r : Regs) (y : Nat) : Nat := rowAddr r (storageRow r.topdown r.height y)

/-- The number of planes and the bits per pixel of each plane, `(np, bps)` (44_packer.md R220). -/
def planeShape : Mode → Nat × Nat
  | .binary => (1, 1)
  | .bwr => (2, 1)
  | .bwy => (2, 1)
  | .bwyr => (1, 2)
  | .gray4 => (2, 1)

/-- `DP`, the destination pitch (44_packer.md R221). -/
def destPitch (w bps : Nat) : Nat := ceilDiv (w * bps) 8

/-! ## The Pixel Sampler -/

/-- The nibble of pixel `x` of the row at `row`: the high one for an even `x`, else the low one
(20_memory.md R65; `GetNib` of 45_geometry.md R254). -/
def getNib (m : Mem) (row x : Nat) : BitVec 4 :=
  let byte := Mem.read m (row + x / 2)
  if x % 2 = 0 then byte.extractLsb' 4 4 else byte.extractLsb' 0 4

/-- `SetNib` of 45_geometry.md R254: pixel `x` of the row at `row` becomes `v`, the other nibble of its byte stays. -/
def setNib (w : Work) (row x : Nat) (v : BitVec 4) : Work :=
  let t := w.read (row + x / 2)
  w.write (row + x / 2) (if x % 2 = 0 then v ++ t.extractLsb' 0 4 else t.extractLsb' 4 4 ++ v)

/-- 1 bpp: MSB-first, a 1 bit is black (41_sampler.md R141). -/
def sample1 (m : Mem) (row x : Nat) : Rgb :=
  if (Mem.read m (row + x / 8)).getLsbD (7 - x % 8) then Rgb.black else Rgb.white

/-- 4 bpp: a nibble indexes the palette (41_sampler.md R142). -/
def sample4 (r : Regs) (m : Mem) (row x : Nat) : Rgb :=
  rgbOf (r.pal[(getNib m row x).toNat]'(Nat.lt_trans (getNib m row x).isLt (by decide)))

/-- 8 bpp: a byte indexes the palette (41_sampler.md R143). -/
def sample8 (r : Regs) (m : Mem) (row x : Nat) : Rgb :=
  rgbOf (r.pal[(Mem.read m (row + x)).toNat]'(Mem.read m (row + x)).isLt)

/-- `n` bytes a pixel, blue, green, red first: 24 bpp for `n = 3` (41_sampler.md R144), 32 bpp for `n = 4`, whose
fourth byte is not read (R145). -/
def sampleBgr (n : Nat) (m : Mem) (row x : Nat) : Rgb :=
  { r := Mem.read m (row + n * x + 2), g := Mem.read m (row + n * x + 1), b := Mem.read m (row + n * x) }

/-- `Sample(x, y)` (41_sampler.md R140). With an illegal SRC_BPP, which no command samples (check V2 of 40_command.md
R123), it answers black (log entry 21). -/
def sample (r : Regs) (m : Mem) (x y : Nat) : Rgb :=
  match bppOf r.srcBpp with
  | some .b1 => sample1 m (imageRowAddr r y) x
  | some .b4 => sample4 r m (imageRowAddr r y) x
  | some .b8 => sample8 r m (imageRowAddr r y) x
  | some .b24 => sampleBgr 3 m (imageRowAddr r y) x
  | some .b32 => sampleBgr 4 m (imageRowAddr r y) x
  | none => Rgb.black

/-- `n = SRC_BPP div 8`, the bytes of a pixel (43_dither.md R195, 45_geometry.md R255). -/
def bytesPerPixel (r : Regs) : Nat := r.srcBpp.toNat / 8

end Sys2Proof.Machine
end

