-- ==== Sys2Proof/Syntax.lean ====
section
/-! DEFINITION. The commands of EPDQ, one constructor for each row of spec/opcode_table.json (30_encoding.md R92). -/

namespace Sys2Proof

/-- A command (30_encoding.md R92), the analogue of an instruction (00_scope.md, glossary). Operands are the
zero-extended numbers of R91; `Instr.WellFormed` holds them to the ranges of R97. -/
inductive Instr where
  /-- `NOP` (40_command.md R129). -/
  | nop
  /-- `SAMPLE x, y` (41_sampler.md R147): column `x`, image row `y`. -/
  | sample (x y : Nat)
  /-- `MATCH r, g, b` (42_matcher.md R170). -/
  | matchColour (r g b : Nat)
  /-- `DGREY` (43_dither.md R193). -/
  | dgrey
  /-- `DCOLOR` (43_dither.md R195). -/
  | dcolor
  /-- `PACK` (44_packer.md R223). -/
  | pack
  /-- `COPY1` (44_packer.md R225). -/
  | copy1
  /-- `VFLIP` (45_geometry.md R251). -/
  | vflip
  /-- `MIRROR` (45_geometry.md R252). -/
  | mirror
  /-- `ROT90` (45_geometry.md R257). -/
  | rot90
  /-- `ROT180` (45_geometry.md R256). -/
  | rot180
  /-- `ROT270` (45_geometry.md R259). -/
  | rot270
  /-- `INVERT` (45_geometry.md R261). -/
  | invert
  deriving DecidableEq, Repr

end Sys2Proof
end

