-- ==== Sys2Proof/Machine/Checks.lean ====
section
/-! DEFINITION. The regions of a command (20_memory.md R70 to R72) and the checks V2 to V8 every accepted command
passes before it touches memory (40_command.md R123). V1 is the decoder's (30_encoding.md R93, R94). -/

namespace Sys2Proof.Machine

open Sys2Proof.Config (Params)

/-- A region: the byte interval `[base, base + size)` (20_memory.md R70). -/
structure Region where
  base : Nat
  size : Nat
  deriving DecidableEq, Repr

/-- Address `a` lies in the region. -/
abbrev Region.Has (g : Region) (a : Nat) : Prop := g.base ≤ a ∧ a < g.base + g.size

/-- The region is in memory: `base + size <= MEM_SIZE`, without wrap-around (20_memory.md R71). -/
def Region.inMemory (memSize : Nat) (g : Region) : Bool := decide (g.base + g.size ≤ memSize)

/-- Two regions overlap (20_memory.md R72). -/
def Region.overlaps (g h : Region) : Bool := decide (g.base < h.base + h.size) && decide (h.base < g.base + g.size)

/-- Region SRC (20_memory.md R70). -/
def srcRegion (r : Regs) : Region := { base := r.base, size := r.pitch * r.height }

/-- Region P0 with destination pitch `dp` (20_memory.md R70). -/
def plane0Region (r : Regs) (dp : Nat) : Region := { base := r.dst0Base.toNat, size := dp * r.height }

/-- Region P1 with destination pitch `dp` (20_memory.md R70). -/
def plane1Region (r : Regs) (dp : Nat) : Region := { base := r.dst1Base.toNat, size := dp * r.height }

/-- `NP = MinPitch(H, 4)`, the pitch of a rotated 4-bpp buffer (20_memory.md R70). -/
def rotatedPitch (r : Regs) : Nat := minPitch r.height 4

/-- Region SCR (20_memory.md R70). -/
def scratchRegion (r : Regs) : Region := { base := r.scratchBase.toNat, size := rotatedPitch r * r.width }

/-- The source is 4 bpp, the one depth a rotation by 90 or 270 degrees works on (45_geometry.md R260). -/
def is4bpp (r : Regs) : Bool := bppOf r.srcBpp == some .b4

/-- The part of the region that exists: its bytes below `MEM_SIZE` (20_memory.md R60). -/
def Region.clip (memSize : Nat) (g : Region) : Region := { g with size := min g.size (memSize - g.base) }

/-- `bps` of CTRL.MODE (44_packer.md R220); a reserved mode, which R220 does not list, counts as 1 (log entry 9). -/
def bpsOf (r : Regs) : Nat :=
  match modeOf r.mode with
  | some m => (planeShape m).2
  | none => 1

/-- The planes a PACK writes, plane 0 first (20_memory.md R70, 44_packer.md R220). -/
def packPlanes (r : Regs) : List Region :=
  match modeOf r.mode with
  | none => []
  | some m =>
    if (planeShape m).1 = 2 then
      [plane0Region r (destPitch r.width (planeShape m).2), plane1Region r (destPitch r.width (planeShape m).2)]
    else [plane0Region r (destPitch r.width (planeShape m).2)]

/-- The "reads" column of 20_memory.md R70. -/
def readRegions (r : Regs) : Instr → List Region
  | .nop => []
  | .matchColour _ _ _ => []
  | .sample _ _ => [srcRegion r]
  | .dgrey => [srcRegion r]
  | .dcolor => [srcRegion r]
  | .pack => [srcRegion r]
  | .copy1 => [srcRegion r]
  | .vflip => [srcRegion r]
  | .mirror => [srcRegion r]
  | .rot180 => [srcRegion r]
  | .invert => [srcRegion r]
  | .rot90 => if is4bpp r then [srcRegion r, scratchRegion r] else []
  | .rot270 => if is4bpp r then [srcRegion r, scratchRegion r] else []

/-- The "writes" column of 20_memory.md R70. -/
def writeRegions (r : Regs) : Instr → List Region
  | .nop => []
  | .matchColour _ _ _ => []
  | .sample _ _ => []
  | .dgrey => [plane0Region r (destPitch r.width (bpsOf r))]
  | .dcolor => [srcRegion r]
  | .pack => packPlanes r
  | .copy1 => [plane0Region r (destPitch r.width (bpsOf r))]
  | .vflip => [srcRegion r]
  | .mirror => [srcRegion r]
  | .rot180 => [srcRegion r]
  | .invert => [srcRegion r]
  | .rot90 => if is4bpp r then [scratchRegion r] else []
  | .rot270 => if is4bpp r then [scratchRegion r] else []

/-- The regions V7 checks: both columns of 20_memory.md R70, "and SRC for a ROT90/ROT270 with `SRC_BPP ≠ 4` too"
(R71). -/
def checkedRegions (r : Regs) (i : Instr) : List Region :=
  match i with
  | .rot90 => srcRegion r :: writeRegions r .rot90
  | .rot270 => srcRegion r :: writeRegions r .rot270
  | .nop | .sample _ _ | .matchColour _ _ _ | .dgrey | .dcolor | .pack | .copy1 | .vflip | .mirror | .rot180
  | .invert => readRegions r i ++ writeRegions r i

/-- The "refused overlaps" column of 20_memory.md R70: every two of these regions must be apart. -/
def separateRegions (r : Regs) : Instr → List Region
  | .nop => []
  | .matchColour _ _ _ => []
  | .sample _ _ => []
  | .dcolor => []
  | .vflip => []
  | .mirror => []
  | .rot180 => []
  | .invert => []
  | .dgrey => [srcRegion r, plane0Region r (destPitch r.width (bpsOf r))]
  | .copy1 => [srcRegion r, plane0Region r (destPitch r.width (bpsOf r))]
  | .pack => srcRegion r :: packPlanes r
  | .rot90 => if is4bpp r then [srcRegion r, scratchRegion r] else []
  | .rot270 => if is4bpp r then [srcRegion r, scratchRegion r] else []

/-- Some two of the regions overlap. -/
def anyOverlap : List Region → Bool
  | [] => false
  | g :: rest => rest.any (Region.overlaps g) || anyOverlap rest

/-- The set SOURCE of 40_command.md R123: the commands that need a source. -/
def needsSource : Instr → Bool
  | .nop => false
  | .matchColour _ _ _ => false
  | .sample _ _ => true
  | .dgrey => true
  | .dcolor => true
  | .pack => true
  | .copy1 => true
  | .vflip => true
  | .mirror => true
  | .rot90 => true
  | .rot180 => true
  | .rot270 => true
  | .invert => true

/-- V2, INVALID_SOURCE, fails (40_command.md R123, 60_exceptions.md R303). -/
def sourceInvalid (r : Regs) : Bool := r.width == 0 || r.height == 0 || (bppOf r.srcBpp).isNone

/-- V4, UNSUPPORTED_CONFIG, fails (40_command.md R123, 60_exceptions.md R305). -/
def configUnsupported (r : Regs) : Instr → Bool
  | .nop => false
  | .sample _ _ => false
  | .vflip => false
  | .mirror => false
  | .rot90 => false
  | .rot180 => false
  | .rot270 => false
  | .invert => false
  | .matchColour _ _ _ => (modeOf r.mode).isNone
  | .pack => (modeOf r.mode).isNone
  | .dgrey => !(modeOf r.mode == some .binary)
  | .dcolor =>
    !(modeOf r.mode == some .bwr || modeOf r.mode == some .bwy || modeOf r.mode == some .bwyr)
      || !(bppOf r.srcBpp == some .b24 || bppOf r.srcBpp == some .b32)
  | .copy1 => !(modeOf r.mode == some .binary) || !(bppOf r.srcBpp == some .b1)

/-- The commands check V5, WIDTH_LIMIT, applies to (40_command.md R123). -/
def usesLineBuffers : Instr → Bool
  | .dgrey => true
  | .dcolor => true
  | .nop | .sample _ _ | .matchColour _ _ _ | .pack | .copy1 | .vflip | .mirror | .rot90 | .rot180 | .rot270
  | .invert => false

/-- V6, COORD_RANGE, fails (40_command.md R123, 41_sampler.md R147). -/
def coordsOutside (r : Regs) : Instr → Bool
  | .sample x y => decide (r.width ≤ x) || decide (r.height ≤ y)
  | .nop | .matchColour _ _ _ | .dgrey | .dcolor | .pack | .copy1 | .vflip | .mirror | .rot90 | .rot180 | .rot270
  | .invert => false

/-- The checks V2 to V8 in their order: the first that fails names the error (40_command.md R123,
60_exceptions.md R310). -/
def validate (p : Params) (r : Regs) (i : Instr) : Option ErrCode :=
  if needsSource i && sourceInvalid r then some .invalidSource
  else if needsSource i && !pitchOk r then some .badPitch
  else if configUnsupported r i then some .unsupportedConfig
  else if usesLineBuffers i && decide (p.maxW < r.width) then some .widthLimit
  else if coordsOutside r i then some .coordRange
  else if (checkedRegions r i).any (fun g => !g.inMemory p.memSize) then some .busError
  else if anyOverlap (separateRegions r i) then some .overlap
  else none

/-- The bytes of memory in the regions command `i` reads by 20_memory.md R70, whether or not it will pass its checks
(log entry 8). -/
def commandReads (s : State) (i : Instr) : List Region := (readRegions s.regs i).map (Region.clip s.params.memSize)

/-- The bytes of memory in the regions command `i` writes by 20_memory.md R70, whether or not it will pass its checks
(log entries 8 and 9). -/
def commandWrites (s : State) (i : Instr) : List Region := (writeRegions s.regs i).map (Region.clip s.params.memSize)

/-- The lifecycle of an accepted command (40_command.md R123 to R127): the first failed check ends it with its error,
else its own effect runs and it completes. -/
def runCommand (i : Instr) (effect : State → State) (s : State) : Host.Outcome State Fault Refusal :=
  match validate s.params s.regs i with
  | some e => .next (raiseError e s)
  | none => .next (complete (effect s))

end Sys2Proof.Machine
end

