-- ==== Sys2Proof/Machine/Matcher.lean ====
section
/-! DEFINITION. The Colour Matcher (42_matcher.md): luma, the grey path, the five matchers and the colour of a
symbol. Differences such as `r - b` are signed integers. -/

namespace Sys2Proof.Machine

/-- `Luma(r, g, b) = (2*g + r + b) div 4` (42_matcher.md R160). -/
def luma (c : Rgb) : Nat := (2 * c.g.toNat + c.r.toNat + c.b.toNat) / 4

/-- `Grey(gr)`: 1, white, from THR_GREY on, else 0, black (42_matcher.md R161). -/
def grey (r : Regs) (gr : Nat) : BitVec 2 := if r.thrGrey.toNat ≤ gr then 1 else 0

/-- `(a - b) > margin` on signed integers (42_matcher.md, opening; R163 to R165). -/
def exceeds (a b margin : Byte) : Bool := decide ((margin.toNat : Int) < (a.toNat : Int) - (b.toNat : Int))

/-- The red margins: `(r - b) > MRB and (r - g) > MRG` (42_matcher.md R163, R165). -/
def redMargin (r : Regs) (c : Rgb) : Bool := exceeds c.r c.b r.marginRB && exceeds c.r c.g r.marginRG

/-- The yellow margins: `(r - b) > MY and (g - b) > MY` (42_matcher.md R164, R165). -/
def yellowMargin (r : Regs) (c : Rgb) : Bool := exceeds c.r c.b r.marginY && exceeds c.g c.b r.marginY

/-- The three-colour black test: `gr < L3 and r < C3` (42_matcher.md R163, R164). -/
def dark3 (r : Regs) (c : Rgb) : Bool := decide (luma c < r.thr3Luma.toNat) && decide (c.r < r.thr3Chan)

/-- The four-colour black test: `gr < L4 or (r < C4 and g < C4)` (42_matcher.md R165). -/
def dark4 (r : Regs) (c : Rgb) : Bool :=
  decide (luma c < r.thr4Luma.toNat) || (decide (c.r < r.thr4Chan) && decide (c.g < r.thr4Chan))

/-- `MatchBWR` (42_matcher.md R163). -/
def matchBwr (r : Regs) (c : Rgb) : BitVec 2 :=
  if c.b < c.r then
    if dark3 r c then 0 else if redMargin r c then 2 else 1
  else grey r (luma c)

/-- `MatchBWY` (42_matcher.md R164). -/
def matchBwy (r : Regs) (c : Rgb) : BitVec 2 :=
  if c.b < c.r ∧ c.b < c.g then
    if dark3 r c then 0 else if yellowMargin r c then 2 else 1
  else grey r (luma c)

/-- `MatchBWYR` (42_matcher.md R165): red is tested before yellow. -/
def matchBwyr (r : Regs) (c : Rgb) : BitVec 2 :=
  if c.b < c.r then
    if dark4 r c then 0 else if redMargin r c then 3 else if yellowMargin r c then 2 else 1
  else grey r (luma c)

/-- `MatchGRAY4 = Luma >> 6` (42_matcher.md R166). -/
def matchGray4 (c : Rgb) : BitVec 2 := BitVec.ofNat 2 (luma c / 64)

/-- `MatchBINARY = Grey(Luma)` (42_matcher.md R167). -/
def matchBinary (r : Regs) (c : Rgb) : BitVec 2 := grey r (luma c)

/-- `Match(m, r, g, b)` (42_matcher.md R168). -/
def matchSymbol (m : Mode) (r : Regs) (c : Rgb) : BitVec 2 :=
  match m with
  | .binary => matchBinary r c
  | .bwr => matchBwr r c
  | .bwy => matchBwy r c
  | .bwyr => matchBwyr r c
  | .gray4 => matchGray4 c

/-- The colour of the third symbol, 2, of a mode (42_matcher.md R169). The spec defines it for BWR, BWY and BWYR; for
the two modes DCOLOR refuses it answers black (log entry 21). -/
def thirdColour (m : Mode) (r : Regs) : Rgb :=
  match m with
  | .bwr => rgbOf r.colorRed
  | .bwy => rgbOf r.colorYel
  | .bwyr => rgbOf r.colorYel
  | .binary => Rgb.black
  | .gray4 => Rgb.black

/-- `SymColour(m, s)` (42_matcher.md R169). Symbol 3 is BWYR's red; no other mode of DCOLOR produces it
(log entry 21). -/
def symColour (m : Mode) (r : Regs) (s : BitVec 2) : Rgb :=
  if s = 0 then Rgb.black
  else if s = 1 then Rgb.white
  else if s = 2 then thirdColour m r
  else rgbOf r.colorRed

end Sys2Proof.Machine
end

