-- ==== Sys2Proof/Machine/Pack.lean ====
section
/-! DEFINITION. The Plane Packer and the meanings of PACK and COPY1 (44_packer.md). -/

namespace Sys2Proof.Machine

open Sys2Proof.Config (Params)

/-- `PackStart(base, DP, y)` (44_packer.md R222). -/
def packStart (base dp y : Nat) (w : Work) : Work :=
  { w with eng := { w.eng with acc := 0, nb := 0, addr := base + y * dp } }

/-- Writes `v` at `addr` and clears `ACC` and `NB`; `addr` moves on by `advance` (44_packer.md R222). -/
def packFlush (v : Byte) (advance : Nat) (w : Work) : Work :=
  { mem := Mem.write w.mem w.eng.addr v
    eng := { w.eng with acc := 0, nb := 0, addr := w.eng.addr + advance } }

/-- `PackPut(bits, n)`, `n` = 1 or 2 (44_packer.md R222). -/
def packPut (bits n : Nat) (w : Work) : Work :=
  let acc : Byte := w.eng.acc <<< n ||| BitVec.ofNat 8 bits
  if w.eng.nb + n = 8 then packFlush acc 1 w
  else { w with eng := { w.eng with acc := acc, nb := w.eng.nb + n } }

/-- `PackEnd()`: a partial byte is shifted up, zero bits below (44_packer.md R222). -/
def packEnd (w : Work) : Work :=
  if 0 < w.eng.nb then packFlush (w.eng.acc <<< (8 - w.eng.nb)) 0 w else w

/-- DST_PITCH, PLANE_BYTES and PLANES after a command that wrote `np` planes of pitch `dp` (44_packer.md R221,
10_state.md R27 to R29). -/
def publishPlanes (dp np : Nat) (s : State) : State :=
  { s with
    regs :=
      { s.regs with
        dstPitch := BitVec.ofNat 17 dp
        planeBytes := BitVec.ofNat 32 (dp * s.regs.height)
        planes := BitVec.ofNat 2 np } }

/-- The base of plane `p` (44_packer.md R224). -/
def planeBase (r : Regs) (p : Nat) : Nat := if p = 0 then r.dst0Base.toNat else r.dst1Base.toNat

/-- What plane `p` takes of a symbol: all of it at 2 bits per pixel, else bit `p` (44_packer.md R223). -/
def planeBits (bps p : Nat) (sym : BitVec 2) : Nat := if bps = 2 then sym.toNat else sym.toNat / 2 ^ p % 2

/-- One pixel of PACK: sample, match, put (44_packer.md R223). -/
def packPixel (m : Mode) (r : Regs) (p y x : Nat) (w : Work) : Work :=
  packPut (planeBits (planeShape m).2 p (matchSymbol m r (sample r w.mem x y))) (planeShape m).2 w

/-- One row of one plane of PACK (44_packer.md R223). -/
def packRow (m : Mode) (r : Regs) (p y : Nat) (w : Work) : Work :=
  packEnd (forCols r.width (packPixel m r p y)
    (packStart (planeBase r p) (destPitch r.width (planeShape m).2) y w))

/-- The body of PACK in mode `m`: plane 0 before plane 1, rows top first, columns left first (44_packer.md R223,
R224). -/
def packWork (m : Mode) (_ : Params) (r : Regs) (w : Work) : Work :=
  forPlanes (planeShape m).1 (fun p => forRows r.height (packRow m r p)) w

/-- PACK's effect: the planes and their metadata (44_packer.md R223). A reserved MODE has failed check V4. -/
def packEffect (s : State) : State :=
  match modeOf s.regs.mode with
  | some m => publishPlanes (destPitch s.regs.width (planeShape m).2) (planeShape m).1 (s.runWork (packWork m))
  | none => s

/-- PACK (44_packer.md R223). -/
def execPack (s : State) : Host.Outcome State Fault Refusal := runCommand .pack packEffect s

/-- The byte COPY1 writes for source byte `v` of a row of `n` bytes and `w` pixels: inverted, and in the row's last
byte with the pad bits 0 (44_packer.md R225). -/
def copyByte (w n k : Nat) (v : Byte) : Byte :=
  if k + 1 = n ∧ w % 8 ≠ 0 then ~~~v &&& (0xFF#8 <<< (8 - w % 8)) else ~~~v

/-- One row of COPY1 (44_packer.md R225). -/
def copyRow (r : Regs) (y : Nat) (w : Work) : Work :=
  let n := destPitch r.width 1
  forCols n
    (fun k w => w.write (r.dst0Base.toNat + y * n + k) (copyByte r.width n k (w.read (imageRowAddr r y + k)))) w

/-- The body of COPY1 (44_packer.md R225). -/
def copyWork (_ : Params) (r : Regs) (w : Work) : Work := forRows r.height (copyRow r) w

/-- COPY1's effect: plane 0 and its metadata (44_packer.md R225). -/
def copyEffect (s : State) : State := publishPlanes (destPitch s.regs.width 1) 1 (s.runWork copyWork)

/-- COPY1 (44_packer.md R225). -/
def execCopy1 (s : State) : Host.Outcome State Fault Refusal := runCommand .copy1 copyEffect s

end Sys2Proof.Machine
end

