-- ==== Sys2Proof/Machine/Dither.lean ====
section
/-! DEFINITION. The Ditherer and the meanings of DGREY and DCOLOR (43_dither.md). -/

namespace Sys2Proof.Machine

open Sys2Proof.Config (Params)

/-- An error channel: 0 for DGREY's luma and DCOLOR's red, 1 green, 2 blue (10_state.md R42). -/
inductive Chan where
  | c0
  | c1
  | c2
  deriving DecidableEq, Repr

/-- The line buffers of a channel. -/
def Engine.chan (g : Engine) : Chan → Channel
  | .c0 => g.ch0
  | .c1 => g.ch1
  | .c2 => g.ch2

/-- The internal state with other line buffers for one channel. -/
def Engine.setChan (g : Engine) (c : Chan) (ch : Channel) : Engine :=
  match c with
  | .c0 => { g with ch0 := ch }
  | .c1 => { g with ch1 := ch }
  | .c2 => { g with ch2 := ch }

/-- Applies `f` to the line buffers of channel `c`. -/
def onChan (c : Chan) (f : Channel → Channel) (w : Work) : Work :=
  { w with eng := w.eng.setChan c (f (w.eng.chan c)) }

/-- `slot <- wrap16(slot + d)` at index `k` (10_state.md R42). -/
def addSlot (buf : List Slot) (k : Nat) (d : Int) : List Slot := buf.modify k fun v => v + BitVec.ofInt 16 d

/-- `DitherInit` for one channel: every slot of both buffers is zero (43_dither.md R190). -/
def ditherInit (p : Params) (c : Chan) (w : Work) : Work := onChan c (fun _ => Channel.zero p.maxW) w

/-- `RowStart(c)`: the next row's buffer becomes the current one and starts again at zero (43_dither.md R190). -/
def rowStart (p : Params) (c : Chan) (w : Work) : Work :=
  onChan c (fun ch => { cur := ch.nxt, nxt := List.replicate (p.maxW + 2) 0 }) w

/-- The error column `x` of channel `c` reads: `Ec_cur[x + 1]`, signed (43_dither.md R190). -/
def carried (c : Chan) (x : Nat) (w : Work) : Int := ((w.eng.chan c).cur.getD (x + 1) 0).toInt

/-- `Diffuse` on one channel's buffers (43_dither.md R191): 7/16 forward, 3/16 down-back, 5/16 down and 1/16
down-forward, by arithmetic shifts. -/
def diffuseInto (x : Nat) (e : Int) (ch : Channel) : Channel :=
  let h := asr e 1
  { cur := addSlot ch.cur (x + 2) (asr (7 * h) 3)
    nxt := addSlot (addSlot (addSlot ch.nxt x (asr (3 * h) 3)) (x + 1) (asr (5 * h) 3)) (x + 2) (asr h 3) }

/-- `Diffuse(c, x, e)` (43_dither.md R191). -/
def diffuse (c : Chan) (x : Nat) (e : Int) (w : Work) : Work := onChan c (diffuseInto x e) w

/-- `Lg(r, g, b) = (2 * Luma) div 3` (43_dither.md R194). -/
def scaledLuma (c : Rgb) : Nat := 2 * luma c / 3

/-- The value dithered: the input plus the carried error, clipped to `0 .. 255` (43_dither.md R193, R195). -/
def corrected (input : Nat) (error : Int) : Int := clamp ((input : Int) + error) 0 255

/-- DGREY's output bit, the top bit of the value (43_dither.md R193). -/
def greyBit (v : Int) : Nat := (asr v 7).toNat

/-- DGREY's quantised value of an output bit (43_dither.md R193). -/
def greyLevel (bit : Nat) : Int := if bit = 1 then 255 else 0

/-- One pixel of DGREY (43_dither.md R193). -/
def dgreyPixel (r : Regs) (y x : Nat) (w : Work) : Work :=
  let v := corrected (scaledLuma (sample r w.mem x y)) (carried .c0 x w)
  packPut (greyBit v) 1 (diffuse .c0 x (v - greyLevel (greyBit v)) w)

/-- One row of DGREY (43_dither.md R193). -/
def dgreyRow (p : Params) (r : Regs) (y : Nat) (w : Work) : Work :=
  packEnd (forCols r.width (dgreyPixel r y)
    (packStart r.dst0Base.toNat (destPitch r.width 1) y (rowStart p .c0 w)))

/-- The body of DGREY (43_dither.md R193). -/
def dgreyWork (p : Params) (r : Regs) (w : Work) : Work :=
  forRows r.height (dgreyRow p r) (ditherInit p .c0 w)

/-- DGREY's effect: plane 0 and its metadata (43_dither.md R193). -/
def dgreyEffect (s : State) : State := publishPlanes (destPitch s.regs.width 1) 1 (s.runWork dgreyWork)

/-- DGREY (43_dither.md R193). -/
def execDgrey (s : State) : Host.Outcome State Fault Refusal := runCommand .dgrey dgreyEffect s

/-- A corrected component, which lies in `0 .. 255`, as 8 bits. -/
def component (v : Int) : Byte := BitVec.ofInt 8 v

/-- Writes a colour at `a` in the order blue, green, red (43_dither.md R195). -/
def writeBgr (a : Nat) (q : Rgb) (w : Work) : Work := ((w.write a q.b).write (a + 1) q.g).write (a + 2) q.r

/-- One pixel of DCOLOR (43_dither.md R195). -/
def dcolorPixel (m : Mode) (r : Regs) (y x : Nat) (w : Work) : Work :=
  let o := sample r w.mem x y
  let v0 := corrected o.r.toNat (carried .c0 x w)
  let v1 := corrected o.g.toNat (carried .c1 x w)
  let v2 := corrected o.b.toNat (carried .c2 x w)
  let q := symColour m r (matchSymbol m r { r := component v0, g := component v1, b := component v2 })
  writeBgr (imageRowAddr r y + bytesPerPixel r * x) q
    (diffuse .c2 x (v2 - q.b.toNat) (diffuse .c1 x (v1 - q.g.toNat) (diffuse .c0 x (v0 - q.r.toNat) w)))

/-- One row of DCOLOR (43_dither.md R195). -/
def dcolorRow (m : Mode) (p : Params) (r : Regs) (y : Nat) (w : Work) : Work :=
  forCols r.width (dcolorPixel m r y) (rowStart p .c2 (rowStart p .c1 (rowStart p .c0 w)))

/-- The body of DCOLOR in mode `m` (43_dither.md R195). -/
def dcolorWork (m : Mode) (p : Params) (r : Regs) (w : Work) : Work :=
  forRows r.height (dcolorRow m p r) (ditherInit p .c2 (ditherInit p .c1 (ditherInit p .c0 w)))

/-- DCOLOR's effect: the source rewritten (43_dither.md R195). A reserved MODE has failed check V4. -/
def dcolorEffect (s : State) : State :=
  match modeOf s.regs.mode with
  | some m => s.runWork (dcolorWork m)
  | none => s

/-- DCOLOR (43_dither.md R195). -/
def execDcolor (s : State) : Host.Outcome State Fault Refusal := runCommand .dcolor dcolorEffect s

end Sys2Proof.Machine
end

