-- ==== Sys2Proof/Machine/Geometry.lean ====
section
/-! DEFINITION. The Geometry Transforms: the meanings of VFLIP, MIRROR, ROT90, ROT180, ROT270 and INVERT
(45_geometry.md). A body takes the buffer it works on as base, width, height and pitch, since ROT270 runs the flip and
the mirror on the new buffer. -/

namespace Sys2Proof.Machine

open Sys2Proof.Config (Params)

/-- `Rev8`: bit reversal (45_geometry.md R253). -/
def rev8 (v : Byte) : Byte :=
  BitVec.ofBoolListBE
    [v.getLsbD 0, v.getLsbD 1, v.getLsbD 2, v.getLsbD 3, v.getLsbD 4, v.getLsbD 5, v.getLsbD 6, v.getLsbD 7]

/-- The body of VFLIP on `height` rows of `pitch` bytes at `base` (45_geometry.md R251). -/
def flipRows (base height pitch : Nat) (w : Work) : Work :=
  forSwaps (height / 2)
    (fun i => forCols pitch fun k w => w.swapBytes id (base + i * pitch + k) (base + (height - 1 - i) * pitch + k)) w

/-- MIRROR of one 1-bpp row of `nb` bytes (45_geometry.md R253). -/
def mirrorRow1 (nb row : Nat) (w : Work) : Work :=
  let w := forCols (nb / 2) (fun k w => w.swapBytes rev8 (row + k) (row + (nb - 1 - k))) w
  if nb % 2 = 1 then w.write (row + nb / 2) (rev8 (w.read (row + nb / 2))) else w

/-- MIRROR of one 4-bpp row of `width` pixels (45_geometry.md R254). -/
def mirrorRow4 (width row : Nat) (w : Work) : Work :=
  forCols (width / 2)
    (fun x w =>
      let a := getNib w.mem row x
      let c := getNib w.mem row (width - 1 - x)
      setNib (setNib w row x c) row (width - 1 - x) a) w

/-- MIRROR of one row of `width` pixels of `n` bytes (45_geometry.md R255). -/
def mirrorRowBytes (n width row : Nat) (w : Work) : Work :=
  forCols (width / 2)
    (fun x => forUpto n fun j w => w.swapBytes id (row + n * x + j) (row + n * (width - 1 - x) + j)) w

/-- The body of MIRROR at bit depth `d` (45_geometry.md R252 to R255): every storage row. -/
def mirrorRows (d : Bpp) (base width height pitch : Nat) (w : Work) : Work :=
  forRows height
    (fun y =>
      match d with
      | .b1 => mirrorRow1 (width / 8) (base + y * pitch)
      | .b4 => mirrorRow4 width (base + y * pitch)
      | .b8 => mirrorRowBytes 1 width (base + y * pitch)
      | .b24 => mirrorRowBytes 3 width (base + y * pitch)
      | .b32 => mirrorRowBytes 4 width (base + y * pitch)) w

/-- MIRROR is skipped: 1 bpp with a width that is not a multiple of 8 (45_geometry.md R253). -/
def mirrorSkips (r : Regs) : Bool := bppOf r.srcBpp == some .b1 && r.width % 8 != 0

/-- VFLIP's body on the source (45_geometry.md R251). -/
def vflipWork (_ : Params) (r : Regs) (w : Work) : Work := flipRows r.base r.height r.pitch w

/-- MIRROR's body on the source (45_geometry.md R252). An illegal SRC_BPP has failed check V2. -/
def mirrorWork (_ : Params) (r : Regs) (w : Work) : Work :=
  match bppOf r.srcBpp with
  | some d => mirrorRows d r.base r.width r.height r.pitch w
  | none => w

/-- MIRROR's effect: the mirror, or GEOM_SKIP where it is skipped (45_geometry.md R252, R253). -/
def mirrorEffect (s : State) : State := if mirrorSkips s.regs then setGeomSkip s else s.runWork mirrorWork

/-- VFLIP (45_geometry.md R251). -/
def execVflip (s : State) : Host.Outcome State Fault Refusal := runCommand .vflip (State.runWork vflipWork) s

/-- MIRROR (45_geometry.md R252). -/
def execMirror (s : State) : Host.Outcome State Fault Refusal := runCommand .mirror mirrorEffect s

/-- ROT180's effect: the body of VFLIP, then the body of MIRROR (45_geometry.md R256). -/
def rot180Effect (s : State) : State := mirrorEffect (s.runWork vflipWork)

/-- ROT180 (45_geometry.md R256). -/
def execRot180 (s : State) : Host.Outcome State Fault Refusal := runCommand .rot180 rot180Effect s

/-- `OldNib(x, y)`: pixel `(x, y)` of the old 4-bpp image (45_geometry.md R257). -/
def oldNib (r : Regs) (m : Mem) (x y : Nat) : BitVec 4 := getNib m (imageRowAddr r y) x

/-- Nibble `x2` of new row `y2`: new pixel `(x2, y2)` is old pixel `(y2, H - 1 - x2)`, and a pad nibble is 0
(45_geometry.md R257). -/
def newNib (r : Regs) (m : Mem) (y2 x2 : Nat) : BitVec 4 :=
  if x2 < r.height then oldNib r m y2 (r.height - 1 - x2) else 0

/-- Row `y2` of the rotated image (45_geometry.md R257). -/
def rot90Row (r : Regs) (y2 : Nat) (w : Work) : Work :=
  forCols (rotatedPitch r)
    (fun k w =>
      w.write (r.scratchBase.toNat + storageRow r.topdown r.width y2 * rotatedPitch r + k)
        (newNib r w.mem y2 (2 * k) ++ newNib r w.mem y2 (2 * k + 1))) w

/-- ROT90's body into region SCR (45_geometry.md R257). -/
def rot90Work (_ : Params) (r : Regs) (w : Work) : Work := forRows r.width (rot90Row r) w

/-- ROT270's body: ROT90's, then the flip and the 4-bpp mirror of the new buffer, which has `W2 = H` columns and
`H2 = W` rows (45_geometry.md R259). -/
def rot270Work (p : Params) (r : Regs) (w : Work) : Work :=
  mirrorRows .b4 r.scratchBase.toNat r.height r.width (rotatedPitch r)
    (flipRows r.scratchBase.toNat r.width (rotatedPitch r) (rot90Work p r w))

/-- The source registers after a 4-bpp rotation: bases and dimensions exchanged, the new pitch (45_geometry.md
R258). -/
def exchangeSource (s : State) : State :=
  { s with
    regs :=
      { s.regs with
        srcBase := s.regs.scratchBase
        scratchBase := s.regs.srcBase
        srcWidth := s.regs.srcHeight
        srcHeight := s.regs.srcWidth
        srcPitch := BitVec.ofNat 32 (rotatedPitch s.regs) } }

/-- ROT90's effect: the rotation (45_geometry.md R257), or at a depth other than 4 bpp GEOM_SKIP alone (R260). -/
def rot90Effect (s : State) : State :=
  if is4bpp s.regs then exchangeSource (s.runWork rot90Work) else setGeomSkip s

/-- ROT270's effect: the rotation (45_geometry.md R259), or at a depth other than 4 bpp GEOM_SKIP alone (R260). -/
def rot270Effect (s : State) : State :=
  if is4bpp s.regs then exchangeSource (s.runWork rot270Work) else setGeomSkip s

/-- ROT90 (45_geometry.md R257). -/
def execRot90 (s : State) : Host.Outcome State Fault Refusal := runCommand .rot90 rot90Effect s

/-- ROT270 (45_geometry.md R259). -/
def execRot270 (s : State) : Host.Outcome State Fault Refusal := runCommand .rot270 rot270Effect s

/-- INVERT's body: every byte of region SRC, padding included (45_geometry.md R261). -/
def invertWork (_ : Params) (r : Regs) (w : Work) : Work :=
  forUpto (r.pitch * r.height) (fun k w => w.write (r.base + k) (~~~w.read (r.base + k))) w

/-- INVERT (45_geometry.md R261). -/
def execInvert (s : State) : Host.Outcome State Fault Refusal := runCommand .invert (State.runWork invertWork) s

end Sys2Proof.Machine
end

