-- ==== Sys2Proof/Machine/Probe.lean ====
section
/-! DEFINITION. The meanings of NOP (40_command.md R129), SAMPLE (41_sampler.md R147) and MATCH (42_matcher.md
R170). -/

namespace Sys2Proof.Machine

/-- RESULT <- `v` (10_state.md R30). -/
def setResult (v : Word) (s : State) : State := { s with regs := { s.regs with result := v } }

/-- RESULT after MATCH: `(gr << 8) | s` (42_matcher.md R170, 10_state.md R30). -/
def matchResult (m : Mode) (r : Regs) (c : Rgb) : Word :=
  (BitVec.ofNat 8 (luma c)).setWidth 32 <<< 8 ||| (matchSymbol m r c).setWidth 32

/-- The operand of MATCH as a colour (30_encoding.md R91). A component above 255 is no operand of a command word
(R97); its low 8 bits are taken (log entry 18). -/
def operandColour (r g b : Nat) : Rgb := { r := BitVec.ofNat 8 r, g := BitVec.ofNat 8 g, b := BitVec.ofNat 8 b }

/-- NOP: checks, then completes at once with no effect of its own (40_command.md R129). -/
def execNop (s : State) : Host.Outcome State Fault Refusal := runCommand .nop id s

/-- RESULT <- the sampled pixel (41_sampler.md R147). -/
def sampleEffect (x y : Nat) (s : State) : State := setResult (sample s.regs s.mem x y).toWord s

/-- RESULT <- luma and symbol of the operand (42_matcher.md R170). A reserved MODE has failed check V4. -/
def matchEffect (r g b : Nat) (s : State) : State :=
  match modeOf s.regs.mode with
  | some m => setResult (matchResult m s.regs (operandColour r g b)) s
  | none => s

/-- SAMPLE (41_sampler.md R147). -/
def execSample (x y : Nat) (s : State) : Host.Outcome State Fault Refusal :=
  runCommand (.sample x y) (sampleEffect x y) s

/-- MATCH (42_matcher.md R170). -/
def execMatch (r g b : Nat) (s : State) : Host.Outcome State Fault Refusal :=
  runCommand (.matchColour r g b) (matchEffect r g b) s

end Sys2Proof.Machine
end

