-- ==== Sys2Proof/Machine/Dispatch.lean ====
section
/-! DEFINITION. The engine runs one accepted, legal command: one arm per row of spec/opcode_table.json. -/

namespace Sys2Proof.Machine

def exec (i : Instr) (s : State) : Host.Outcome State Fault Refusal :=
  match i with
  | .nop => Sys2Proof.Machine.execNop s
  | .sample x y => Sys2Proof.Machine.execSample x y s
  | .matchColour r g b => Sys2Proof.Machine.execMatch r g b s
  | .dgrey => Sys2Proof.Machine.execDgrey s
  | .dcolor => Sys2Proof.Machine.execDcolor s
  | .pack => Sys2Proof.Machine.execPack s
  | .copy1 => Sys2Proof.Machine.execCopy1 s
  | .vflip => Sys2Proof.Machine.execVflip s
  | .mirror => Sys2Proof.Machine.execMirror s
  | .rot90 => Sys2Proof.Machine.execRot90 s
  | .rot180 => Sys2Proof.Machine.execRot180 s
  | .rot270 => Sys2Proof.Machine.execRot270 s
  | .invert => Sys2Proof.Machine.execInvert s

end Sys2Proof.Machine
end

