-- ==== Sys2Proof/WellFormed.lean ====
section
/-! DEFINITION. Which commands can be written as a command word: the operand ranges of 30_encoding.md R91, which the
assembler of R97 enforces. -/

namespace Sys2Proof

/-- The assembler's check (30_encoding.md R97): "An assembler refuses a coordinate above 4095 or a colour component
above 255 rather than truncate it". A Z-format command has no operand to check. -/
abbrev Instr.WellFormed : Instr → Prop
  | .sample x y => x ≤ 4095 ∧ y ≤ 4095
  | .matchColour r g b => r ≤ 255 ∧ g ≤ 255 ∧ b ≤ 255
  | .nop | .dgrey | .dcolor | .pack | .copy1 | .vflip | .mirror | .rot90 | .rot180 | .rot270 | .invert => True

end Sys2Proof
end

