-- ==== Sys2Proof/Decode.lean ====
section
/-! DEFINITION. The command word (30_encoding.md R90 to R96): field extraction, a total decoder that rejects by name,
and the encoder written from the same tables. -/

namespace Sys2Proof

/-- Why a command word is illegal (30_encoding.md R93, R94). Each ends in ILLEGAL_COMMAND (60_exceptions.md R302). -/
inductive DecodeError where
  /-- OP is not in the opcode map (30_encoding.md R93). -/
  | reservedOp (op : BitVec 8)
  /-- A Z-format OP with an operand that is not zero (30_encoding.md R94). -/
  | operandNotZero (op : BitVec 8) (operand : BitVec 24)
  deriving DecidableEq, Repr

/-- OP, bits `[31:24]` (30_encoding.md R90). -/
def fieldOp (w : Word) : BitVec 8 := w.extractLsb' 24 8

/-- OPERAND, bits `[23:0]` (30_encoding.md R90). -/
def fieldOperand (w : Word) : BitVec 24 := w.extractLsb' 0 24

/-- X of format XY, bits `[23:12]` (30_encoding.md R91). -/
def fieldX (w : Word) : BitVec 12 := w.extractLsb' 12 12

/-- Y of format XY, bits `[11:0]` (30_encoding.md R91). -/
def fieldY (w : Word) : BitVec 12 := w.extractLsb' 0 12

/-- R of format RGB, bits `[23:16]` (30_encoding.md R91). -/
def fieldR (w : Word) : BitVec 8 := w.extractLsb' 16 8

/-- G of format RGB, bits `[15:8]` (30_encoding.md R91). -/
def fieldG (w : Word) : BitVec 8 := w.extractLsb' 8 8

/-- B of format RGB, bits `[7:0]` (30_encoding.md R91). -/
def fieldB (w : Word) : BitVec 8 := w.extractLsb' 0 8

/-- The Z-format rows of the opcode map (30_encoding.md R92): the command a Z-format OP selects. -/
def zFormat : Nat → Option Instr
  | 0x00 => some .nop
  | 0x10 => some .dgrey
  | 0x11 => some .dcolor
  | 0x20 => some .pack
  | 0x21 => some .copy1
  | 0x30 => some .vflip
  | 0x31 => some .mirror
  | 0x32 => some .rot90
  | 0x33 => some .rot180
  | 0x34 => some .rot270
  | 0x35 => some .invert
  | _ => none

/-- Decoding is total (30_encoding.md R96): each word is one command of R92 or illegal by R93 or R94. -/
def decode (w : Word) : Except DecodeError Instr :=
  if fieldOp w = 0x01#8 then .ok (.sample (fieldX w).toNat (fieldY w).toNat)
  else if fieldOp w = 0x02#8 then .ok (.matchColour (fieldR w).toNat (fieldG w).toNat (fieldB w).toNat)
  else
    match zFormat (fieldOp w).toNat with
    | none => .error (.reservedOp (fieldOp w))
    | some i => if fieldOperand w = 0 then .ok i else .error (.operandNotZero (fieldOp w) (fieldOperand w))

/-- The OP of each command (30_encoding.md R92). -/
def opcode : Instr → BitVec 8
  | .nop => 0x00
  | .sample _ _ => 0x01
  | .matchColour _ _ _ => 0x02
  | .dgrey => 0x10
  | .dcolor => 0x11
  | .pack => 0x20
  | .copy1 => 0x21
  | .vflip => 0x30
  | .mirror => 0x31
  | .rot90 => 0x32
  | .rot180 => 0x33
  | .rot270 => 0x34
  | .invert => 0x35

/-- The OPERAND of each command, by its format (30_encoding.md R91). -/
def operandBits : Instr → BitVec 24
  | .sample x y => BitVec.ofNat 12 x ++ BitVec.ofNat 12 y
  | .matchColour r g b => (BitVec.ofNat 8 r ++ BitVec.ofNat 8 g : BitVec 16) ++ BitVec.ofNat 8 b
  | .nop | .dgrey | .dcolor | .pack | .copy1 | .vflip | .mirror | .rot90 | .rot180 | .rot270 | .invert => 0

/-- The command word of a command (30_encoding.md R90, R97). -/
def encode (i : Instr) : Word := opcode i ++ operandBits i

/-- The rows of the opcode map as (mask, match) pairs (30_encoding.md R92; opcode_table.json). A Z row fixes the whole
word, an XY or RGB row fixes OP alone. -/
def opcodeRows : List (Word × Word) :=
  [(0xFFFFFFFF, 0x00000000), (0xFF000000, 0x01000000), (0xFF000000, 0x02000000), (0xFFFFFFFF, 0x10000000),
   (0xFFFFFFFF, 0x11000000), (0xFFFFFFFF, 0x20000000), (0xFFFFFFFF, 0x21000000), (0xFFFFFFFF, 0x30000000),
   (0xFFFFFFFF, 0x31000000), (0xFFFFFFFF, 0x32000000), (0xFFFFFFFF, 0x33000000), (0xFFFFFFFF, 0x34000000),
   (0xFFFFFFFF, 0x35000000)]

/-- `w` is in the row `(mask, match)`: `(word & mask) == match` (30_encoding.md R96). -/
def rowMatches (row : Word × Word) (w : Word) : Bool := w &&& row.1 == row.2

/-- The command word whose low `nbits` bits are those of `w`, every higher bit 0. A command is presented whole on
the 32-bit CMD register (30_encoding.md R90), so there is no byte order to lay out (20_memory.md R64). -/
def presentedWord (nbits w : Nat) : Word := BitVec.ofNat 32 (w % 2 ^ nbits)

/-- What the decoder reads from an instruction whose bits are `w`, as opcode_table.json numbers them. -/
def decodeTableWord (nbits w : Nat) : Option Instr := (decode (presentedWord nbits w)).toOption

end Sys2Proof
end

