-- ==== Sys2Proof/Machine/Port.lean ====
section
/-! DEFINITION. The host's side: the register map and its access rules (10_state.md R20 to R45), the host's memory
accesses (20_memory.md R60, R74, R75) and the reset input (70_reset_and_hazards.md R340 to R343). -/

namespace Sys2Proof.Machine

/-! ## The register map -/

/-- The registers of the port (10_state.md R20). -/
inductive PortReg where
  | id
  | ctrl
  | status
  | cmd
  | errCmd
  | result
  | dstPitch
  | planeBytes
  | planes
  | srcBase
  | srcWidth
  | srcHeight
  | srcBpp
  | srcPitch
  | dst0Base
  | dst1Base
  | scratchBase
  | thrGrey
  | thr3
  | thr4
  | margin
  | colorRed
  | colorYel
  | pal (i : Fin 256)
  | reserved
  deriving DecidableEq, Repr

/-- The register at an aligned byte offset (10_state.md R20); every other offset is reserved (R44). -/
def portRegAt (offset : BitVec 11) : PortReg :=
  match offset.toNat with
  | 0x000 => .id
  | 0x004 => .ctrl
  | 0x008 => .status
  | 0x00C => .cmd
  | 0x010 => .errCmd
  | 0x014 => .result
  | 0x018 => .dstPitch
  | 0x01C => .planeBytes
  | 0x020 => .planes
  | 0x040 => .srcBase
  | 0x044 => .srcWidth
  | 0x048 => .srcHeight
  | 0x04C => .srcBpp
  | 0x050 => .srcPitch
  | 0x054 => .dst0Base
  | 0x058 => .dst1Base
  | 0x05C => .scratchBase
  | 0x080 => .thrGrey
  | 0x084 => .thr3
  | 0x088 => .thr4
  | 0x08C => .margin
  | 0x090 => .colorRed
  | 0x094 => .colorYel
  | n => if 0x400 ≤ n then .pal ⟨(n - 0x400) / 4 % 256, Nat.mod_lt _ (by decide)⟩ else .reserved

/-- ID, the ASCII bytes "EPDQ" (10_state.md R22). -/
def idValue : Word := 0x45504451

/-- What a read of a register returns (10_state.md R22 to R41): the implemented bits, each reserved bit 0 (R44), and 0
for CMD (R25) and a reserved offset (R44). -/
def readPort (s : State) : PortReg → Word
  | .id => idValue
  | .ctrl => s.regs.mode.setWidth 32 ||| (bitWord s.regs.topdown <<< 3) ||| (bitWord s.regs.irqEn <<< 4)
  | .status => s.status.toWord
  | .cmd => 0
  | .errCmd => s.regs.errCmd
  | .result => s.regs.result
  | .dstPitch => s.regs.dstPitch.setWidth 32
  | .planeBytes => s.regs.planeBytes
  | .planes => s.regs.planes.setWidth 32
  | .srcBase => s.regs.srcBase
  | .srcWidth => s.regs.srcWidth.setWidth 32
  | .srcHeight => s.regs.srcHeight.setWidth 32
  | .srcBpp => s.regs.srcBpp.setWidth 32
  | .srcPitch => s.regs.srcPitch
  | .dst0Base => s.regs.dst0Base
  | .dst1Base => s.regs.dst1Base
  | .scratchBase => s.regs.scratchBase
  | .thrGrey => s.regs.thrGrey.setWidth 32
  | .thr3 => (s.regs.thr3Chan ++ s.regs.thr3Luma : BitVec 16).setWidth 32
  | .thr4 => (s.regs.thr4Chan ++ s.regs.thr4Luma : BitVec 16).setWidth 32
  | .margin => ((s.regs.marginRG ++ s.regs.marginRB : BitVec 16) ++ s.regs.marginY : BitVec 24).setWidth 32
  | .colorRed => s.regs.colorRed.setWidth 32
  | .colorYel => s.regs.colorYel.setWidth 32
  | .pal i => s.regs.pal[i].setWidth 32
  | .reserved => 0

/-- A host write of `v` to a RW register (10_state.md R23, R31 to R41): the implemented bits are stored. A write to an
RO register or a reserved offset is ignored (R44). STATUS and CMD are not plain registers: see `writePort`. -/
def writeReg (r : Regs) (v : Word) : PortReg → Regs
  | .ctrl => { r with mode := v.extractLsb' 0 3, topdown := v.getLsbD 3, irqEn := v.getLsbD 4 }
  | .srcBase => { r with srcBase := v }
  | .srcWidth => { r with srcWidth := v.extractLsb' 0 16 }
  | .srcHeight => { r with srcHeight := v.extractLsb' 0 16 }
  | .srcBpp => { r with srcBpp := v.extractLsb' 0 6 }
  | .srcPitch => { r with srcPitch := v }
  | .dst0Base => { r with dst0Base := v }
  | .dst1Base => { r with dst1Base := v }
  | .scratchBase => { r with scratchBase := v }
  | .thrGrey => { r with thrGrey := v.extractLsb' 0 8 }
  | .thr3 => { r with thr3Luma := v.extractLsb' 0 8, thr3Chan := v.extractLsb' 8 8 }
  | .thr4 => { r with thr4Luma := v.extractLsb' 0 8, thr4Chan := v.extractLsb' 8 8 }
  | .margin =>
    { r with marginY := v.extractLsb' 0 8, marginRB := v.extractLsb' 8 8, marginRG := v.extractLsb' 16 8 }
  | .colorRed => { r with colorRed := v.extractLsb' 0 24 }
  | .colorYel => { r with colorYel := v.extractLsb' 0 24 }
  | .pal i => { r with pal := r.pal.set i (v.extractLsb' 0 24) }
  | .id | .status | .cmd | .errCmd | .result | .dstPitch | .planeBytes | .planes | .reserved => r

/-- A host write of `v` to a register while the reset input is low. STATUS takes the W1C acknowledgement whether or
not BUSY is 1 (10_state.md R24). Any other write while BUSY is 1 is ignored and sets OVERRUN (R45). A write to CMD is
accepted as a command when BUSY and ERR are 0 (40_command.md R120), else dropped with OVERRUN (R121). -/
def writePort (g : PortReg) (v : Word) (s : State) : State :=
  match g with
  | .status => acknowledge v s
  | .cmd => if s.status.busy || s.status.err then setOverrun s else accept v s
  | .id | .ctrl | .errCmd | .result | .dstPitch | .planeBytes | .planes | .srcBase | .srcWidth | .srcHeight | .srcBpp
  | .srcPitch | .dst0Base | .dst1Base | .scratchBase | .thrGrey | .thr3 | .thr4 | .margin | .colorRed | .colorYel
  | .pal _ | .reserved =>
    if s.status.busy then setOverrun s else { s with regs := writeReg s.regs v g }

/-- The port takes whole aligned 32-bit words only (20_memory.md R68). -/
def portAccessOk (offset : BitVec 11) (width : AccessWidth) : Bool :=
  width == .word && offset.toNat % 4 == 0

/-- A host register write. While reset is asserted the port ignores writes (70_reset_and_hazards.md R340). -/
def hostRegWrite (offset : BitVec 11) (width : AccessWidth) (v : Word) (s : State) :
    Host.Outcome State Fault Refusal :=
  if portAccessOk offset width then
    .next (if s.inReset then s else writePort (portRegAt offset) v s)
  else .refused (.badPortAccess offset width)

/-- A host register read, always answered (10_state.md R45) and without effect on a register. While reset is asserted
it returns an unspecified value (70_reset_and_hazards.md R340): a free value. -/
def hostRegRead (offset : BitVec 11) (width : AccessWidth) (s : State) : Host.Outcome State Fault Refusal :=
  if portAccessOk offset width then
    .next
      (if s.inReset then { s with readData := Config.freeWord s.fresh, fresh := s.fresh + 1 }
       else { s with readData := readPort s (portRegAt offset) })
  else .refused (.badPortAccess offset width)

/-! ## The regions of the running command -/

/-- Some region has the address. -/
def anyHas (gs : List Region) (a : Nat) : Bool := gs.any fun g => decide (g.Has a)

/-- The regions the running command reads: none while the engine is idle, or for an illegal word, which has no row in
20_memory.md R70. -/
def runningReads (s : State) : List Region :=
  if s.status.busy then
    match decode s.cmdWord with
    | .ok i => commandReads s i
    | .error _ => []
  else []

/-- The regions the running command writes: none while the engine is idle, or for an illegal word, which has no row in
20_memory.md R70. -/
def runningWrites (s : State) : List Region :=
  if s.status.busy then
    match decode s.cmdWord with
    | .ok i => commandWrites s i
    | .error _ => []
  else []

/-- A byte of memory takes a free value (93_implementation_defined.md, `any value`). -/
def scrambleByte (a : Nat) (s : State) : State :=
  { s with mem := Mem.write s.mem a (Config.freeByte s.fresh), fresh := s.fresh + 1 }

/-- Every byte of a region takes a free value. -/
def scrambleRegion (g : Region) (s : State) : State := forUpto g.size (fun k s => scrambleByte (g.base + k) s) s

/-- Every byte of the regions takes a free value. -/
def scramble : List Region → State → State
  | [], s => s
  | g :: gs, s => scramble gs (scrambleRegion g s)

/-- The host breaks 20_memory.md R75 by an access that `touches` says it makes. -/
def noteRace (touches : Bool) (s : State) : State := { s with raced := s.raced || touches }

/-- A host write of a byte of memory (20_memory.md R60). A write to a region the running command reads or writes breaks
R75. -/
def hostMemWrite (a : Word) (v : Byte) (s : State) : Host.Outcome State Fault Refusal :=
  if a.toNat < s.params.memSize then
    .next
      (noteRace (anyHas (runningReads s ++ runningWrites s) a.toNat) { s with mem := Mem.write s.mem a.toNat v })
  else .fault (.noSuchAddress a)

/-- A host read of a byte of memory (20_memory.md R60). In a region the running command writes it returns an
unspecified value (R74, R75): a free value. -/
def hostMemRead (a : Word) (s : State) : Host.Outcome State Fault Refusal :=
  if a.toNat < s.params.memSize then
    .next
      (if anyHas (runningWrites s) a.toNat then
        noteRace true { s with readData := (Config.freeByte s.fresh).setWidth 32, fresh := s.fresh + 1 }
       else { s with readData := (Mem.read s.mem a.toNat).setWidth 32 })
  else .fault (.noSuchAddress a)

/-! ## Reset -/

/-- The palette after a reset: unspecified (70_reset_and_hazards.md R341), a free value in every entry. -/
def freePalette (fresh : Nat) : Vector (BitVec 24) 256 :=
  Vector.ofFn fun i => (Config.freeWord (fresh + i)).setWidth 24

/-- The platform asserts reset (70_reset_and_hazards.md R340 to R343): a running command is abandoned, and its write
regions hold free values whether or not it would have passed its checks (R343, log entry 9); the registers take their reset values, the palette free ones; memory is not touched
otherwise, and the internal state is not cleared. -/
def assertReset (s : State) : State :=
  let t := scramble (runningWrites s) s
  { t with
    regs := { Regs.reset with pal := freePalette t.fresh }
    status := Status.reset
    cmdWord := 0
    inReset := true
    raced := false
    fresh := t.fresh + 256 }

/-- The platform releases reset (70_reset_and_hazards.md R340, R344). -/
def releaseReset (s : State) : State := { s with inReset := false }

end Sys2Proof.Machine
end

