-- ==== Sys2Proof/Machine/Sequencer.lean ====
section
/-! DEFINITION. The command sequencer (00_scope.md R2; 40_command.md R120 to R128): the engine's step on an accepted
word, the host's step on its next action, and whose turn it is. -/

namespace Sys2Proof.Machine

/-- The RESULT a raced SAMPLE leaves: unspecified (20_memory.md R75) within the bits 10_state.md R30 gives it. -/
def freeResult (fresh : Nat) : Word := ((Config.freeWord fresh).setWidth 24).setWidth 32

/-- What a broken 20_memory.md R75 does to the state a command left: every byte of its write regions takes a free
value, and the RESULT of a SAMPLE that passed its checks does too. `before` is the state the command ran on. -/
def settleRace (i : Instr) (before after : State) : State :=
  if before.raced then
    let t := scramble (commandWrites before i) { after with raced := false }
    match i, validate before.params before.regs i with
    | .sample _ _, none =>
      { t with regs := { t.regs with result := freeResult t.fresh }, fresh := t.fresh + 1 }
    | _, _ => t
  else after

/-- The engine runs the accepted word to its end, as one step (40_command.md R123, R128). An illegal word fails check
V1 (30_encoding.md R93, R94); it has no regions, so no race outlives it. -/
def runAccepted (s : State) : Host.Outcome State Fault Refusal :=
  match decode s.cmdWord with
  | .error _ => .next (raiseError .illegalCommand { s with raced := false })
  | .ok i =>
    match exec i s with
    | .next t => .next (settleRace i s t)
    | .fault f => .fault f
    | .refused r => .refused r

/-- The engine's turn: it runs the accepted word, or stays idle. -/
def engineStep (s : State) : Host.Outcome State Fault Refusal := if s.status.busy then runAccepted s else .next s

/-- The host's, or the platform's, next action. -/
def hostStep (e : HostEvent) (s : State) : Host.Outcome State Fault Refusal :=
  match e with
  | .regWrite o w v => hostRegWrite o w v s
  | .regRead o w => hostRegRead o w s
  | .memWrite a v => hostMemWrite a v s
  | .memRead a => hostMemRead a s
  | .assertReset => .next (assertReset s)
  | .releaseReset => .next (releaseReset s)
  | .engineTurn => engineStep s

/-- One step: the host's next pending action, or the engine's turn where there is none (log entry 7). -/
def sequencerStep (s : State) : Host.Outcome State Fault Refusal :=
  match s.inputs with
  | [] => engineStep s
  | e :: rest => hostStep e { s with inputs := rest }

/-- A machine in which the host has had the word `w` accepted and lets the engine run (log entry 2): ERR is clear and
reset is not asserted, as acceptance takes, and the host's other pending actions wait. -/
def presentCommand (w : Word) (s : State) : State :=
  let t :=
    accept w { s with status := { s.status with err := false, errCode := 0 }, inReset := false }
  match s.inputs with
  | [] => t
  | e :: rest => { t with inputs := .engineTurn :: e :: rest }

end Sys2Proof.Machine
end

