-- ==== Sys2Proof/Machine/Step.lean ====
section
/-! DEFINITION. The step of the machine, and how an instruction is placed where the next step runs it. -/

namespace Sys2Proof.Machine

/-- One step of EPDQ and its host: see `sequencerStep`. -/
def step (s : State) : Host.Outcome State Fault Refusal := sequencerStep s

/-- `s` with the instruction whose bits are `w` accepted as the running command, so that the very next step runs it
(log entry 2). It stands for the host's write to CMD (40_command.md R120, R122). -/
def State.withFetchWord (s : State) (nbits w : Nat) : State := presentCommand (presentedWord nbits w) s

end Sys2Proof.Machine
end

