-- ==== Sys2Proof/Safety.lean ====
section
/-! DEFINITION. What counts as a safe run of EPDQ, in the terms the statements use: the invariant of the machine, when a
command executes normally, what its completion and its error leave, and the regions of 20_memory.md R70 written out as
numbers, apart from the definitions the machine itself runs on. -/

namespace Sys2Proof.Machine

/-! ## The invariant -/

/-- What holds of every state of the machine: memory is canonical and inside `MEM_SIZE` (20_memory.md R60, R71); the
parameters are legal (00_scope.md R5); every line buffer has `MAX_W + 2` slots (10_state.md R42); `NB` is 0 to 7 (R43);
ERR_CODE is 0 exactly when ERR is 0 and never above 8 (10_state.md R24, 60_exceptions.md R301); BUSY excludes ERR (R24)
and DONE (40_command.md R122); PLANES is at most 2 (10_state.md R29); while reset is asserted the registers hold their
reset values (70_reset_and_hazards.md R340). `raced` is the model's own: only a running command has races. -/
structure Inv (s : State) : Prop where
  memWf : Mem.wf s.mem
  memWithin : Mem.within s.mem s.params.memSize
  params : s.params.Legal
  lines0 : s.eng.ch0.cur.length = s.params.maxW + 2 ∧ s.eng.ch0.nxt.length = s.params.maxW + 2
  lines1 : s.eng.ch1.cur.length = s.params.maxW + 2 ∧ s.eng.ch1.nxt.length = s.params.maxW + 2
  lines2 : s.eng.ch2.cur.length = s.params.maxW + 2 ∧ s.eng.ch2.nxt.length = s.params.maxW + 2
  nb : s.eng.nb < 8
  errCode : s.status.errCode = 0 ↔ s.status.err = false
  errCodeLe : s.status.errCode.toNat ≤ 8
  busyErr : s.status.busy = true → s.status.err = false
  busyDone : s.status.busy = true → s.status.done = false
  planes : s.regs.planes.toNat ≤ 2
  held : s.inReset = true → s.status = Status.reset ∧ s.regs = { Regs.reset with pal := s.regs.pal }
  raced : s.raced = true → s.status.busy = true

/-! ## How a command ends -/

/-- The state after a command that ended with error `code`: ERR, ERR_CODE, ERR_CMD, BUSY and DONE are written, nothing
else (60_exceptions.md R300). -/
def errorState (s : State) (code : Nat) : State :=
  { s with
    regs := { s.regs with errCmd := s.cmdWord }
    status := { s.status with err := true, errCode := BitVec.ofNat 4 code, busy := false, done := true } }

/-- `t` is `s` after a completed command that left the registers `r`, and set GEOM_SKIP where `skip` says so
(40_command.md R126, 10_state.md R46). Memory and the internal state are said apart. -/
def CompletedWith (s t : State) (r : Regs) (skip : Bool) : Prop :=
  t =
    { s with
      regs := r
      status := { s.status with busy := false, done := true, geomSkip := s.status.geomSkip || skip }
      mem := t.mem
      eng := t.eng }

/-- The line buffers keep their contents (10_state.md R42). -/
def LinesKept (s t : State) : Prop := t.eng.ch0 = s.eng.ch0 ∧ t.eng.ch1 = s.eng.ch1 ∧ t.eng.ch2 = s.eng.ch2

/-- Every byte of memory reads as before. -/
def MemoryKept (s t : State) : Prop := ∀ a, Mem.read t.mem a = Mem.read s.mem a

/-- Every byte outside `[base, base + size)` reads as before. -/
def MemoryKeptOutside (s t : State) (base size : Nat) : Prop :=
  ∀ a, ¬(base ≤ a ∧ a < base + size) → Mem.read t.mem a = Mem.read s.mem a

/-! ## When a command executes normally -/

/-- Two regions do not overlap (20_memory.md R72). -/
def Apart (a n b m : Nat) : Prop := ¬(a < b + m ∧ b < a + n)

/-- `MinPitch(w, b)`, spelled as 20_memory.md R67 does. -/
def leastPitch (w b : Nat) : Nat := (w * b + 31) / 2 ^ 5 * 2 ^ 2

/-- The checks V2, V3 and V7 on region SRC pass (40_command.md R123). -/
structure SourceReady (s : State) : Prop where
  width : 1 ≤ s.regs.srcWidth.toNat
  height : 1 ≤ s.regs.srcHeight.toNat
  depth : s.regs.srcBpp.toNat ∈ [1, 4, 8, 24, 32]
  aligned : s.regs.srcPitch.toNat % 4 = 0
  pitch : leastPitch s.regs.srcWidth.toNat s.regs.srcBpp.toNat ≤ s.regs.srcPitch.toNat
  inMemory : s.regs.srcBase.toNat + s.regs.srcPitch.toNat * s.regs.srcHeight.toNat ≤ s.params.memSize

/-- The bytes of one output plane with `bps` bits a pixel: `DP * H` (20_memory.md R69, 44_packer.md R221). -/
def planeSize (r : Regs) (bps : Nat) : Nat := (r.srcWidth.toNat * bps + 7) / 8 * r.srcHeight.toNat

/-- The checks V7 on P0 and V8 on SRC/P0 pass (40_command.md R123). -/
structure Plane0Ready (s : State) (bps : Nat) : Prop where
  inMemory : s.regs.dst0Base.toNat + planeSize s.regs bps ≤ s.params.memSize
  apart : Apart s.regs.srcBase.toNat (s.regs.srcPitch.toNat * s.regs.srcHeight.toNat) s.regs.dst0Base.toNat
    (planeSize s.regs bps)

/-- The checks V7 on P1 and V8 on SRC/P1 and P0/P1 pass (40_command.md R123). -/
structure Plane1Ready (s : State) (bps : Nat) : Prop where
  inMemory : s.regs.dst1Base.toNat + planeSize s.regs bps ≤ s.params.memSize
  apart : Apart s.regs.srcBase.toNat (s.regs.srcPitch.toNat * s.regs.srcHeight.toNat) s.regs.dst1Base.toNat
    (planeSize s.regs bps)
  planesApart : Apart s.regs.dst0Base.toNat (planeSize s.regs bps) s.regs.dst1Base.toNat (planeSize s.regs bps)

/-- The source is 4 bpp and the checks V7 on SCR and V8 on SRC/SCR pass (40_command.md R123). -/
structure ScratchReady (s : State) : Prop where
  depth : s.regs.srcBpp = 4
  inMemory : s.regs.scratchBase.toNat + leastPitch s.regs.srcHeight.toNat 4 * s.regs.srcWidth.toNat
    ≤ s.params.memSize
  apart : Apart s.regs.srcBase.toNat (s.regs.srcPitch.toNat * s.regs.srcHeight.toNat) s.regs.scratchBase.toNat
    (leastPitch s.regs.srcHeight.toNat 4 * s.regs.srcWidth.toNat)

/-! ## The image -/

/-- Where image row `y` of the source starts: `SRC_BASE + s(y) * SRC_PITCH` (20_memory.md R65, R66). -/
def srcRow (r : Regs) (y : Nat) : Nat :=
  r.srcBase.toNat + (if r.topdown then y else r.srcHeight.toNat - 1 - y) * r.srcPitch.toNat

/-- Bit `i` of the row at `row`, bits of a byte counted from the most significant (00_scope.md R7, "MSB-first"). -/
def rowBit (m : Mem) (row i : Nat) : Bool := (Mem.read m (row + i / 8)).getLsbD (7 - i % 8)

/-- The nibble of pixel `x` of the 4-bpp row at `row`: bits `[7:4]` for an even `x`, else `[3:0]` (20_memory.md R65). -/
def rowNibble (m : Mem) (row x : Nat) : Nat :=
  if x % 2 = 0 then (Mem.read m (row + x / 2)).toNat / 16 else (Mem.read m (row + x / 2)).toNat % 16

/-- `Unpack(plane, DP, bps, x, y)` (44_packer.md R227). -/
def unpack (m : Mem) (base dp bps x y : Nat) : Nat :=
  (Mem.read m (base + y * dp + x * bps / 2 ^ 3)).toNat / 2 ^ (8 - bps - x * bps % 8) % 2 ^ bps

/-- The error pixel `(x, y)` of a `w`-column image receives from its four earlier neighbours, `e y x` being the residual
of pixel `(x, y)`: 7/16 of the left one, and of the row above 3/16 of the right one, 5/16 of the one above and 1/16 of
the left one, by the shifts of 43_dither.md R191; a neighbour outside the image sends nothing (R192). -/
def receivedError (w : Nat) (e : Nat → Nat → Int) (y x : Nat) : Int :=
  (if 1 ≤ x then 7 * (e y (x - 1) / 2) / 8 else 0)
    + (if 1 ≤ y ∧ x + 1 < w then 3 * (e (y - 1) (x + 1) / 2) / 8 else 0)
    + (if 1 ≤ y then 5 * (e (y - 1) x / 2) / 8 else 0)
    + (if 1 ≤ y ∧ 1 ≤ x then e (y - 1) (x - 1) / 2 / 8 else 0)

/-- `clamp(v, 0, 255)` (00_scope.md R8). -/
def clip (v : Int) : Int := max 0 (min 255 v)

/-! ## The checks and the regions, written out -/

/-- The set SOURCE of 40_command.md R123. -/
def ReadsSource (i : Instr) : Prop := i ≠ .nop ∧ ∀ r g b, i ≠ .matchColour r g b

/-- The interval of SRC (20_memory.md R70). -/
def srcInterval (r : Regs) : Nat × Nat := (r.srcBase.toNat, r.srcPitch.toNat * r.srcHeight.toNat)

/-- The interval of SCR (20_memory.md R70). -/
def scrInterval (r : Regs) : Nat × Nat := (r.scratchBase.toNat, leastPitch r.srcHeight.toNat 4 * r.srcWidth.toNat)

/-- The intervals of the planes PACK writes, by CTRL.MODE (44_packer.md R220). -/
def packIntervals (r : Regs) : List (Nat × Nat) :=
  if r.mode = 0 then [(r.dst0Base.toNat, planeSize r 1)]
  else if r.mode = 3 then [(r.dst0Base.toNat, planeSize r 2)]
  else if r.mode = 1 ∨ r.mode = 2 ∨ r.mode = 4 then
    [(r.dst0Base.toNat, planeSize r 1), (r.dst1Base.toNat, planeSize r 1)]
  else []

/-- `bps` of the mode (44_packer.md R220): 2 in BWYR, else 1. -/
def modeBits (r : Regs) : Nat := if r.mode = 3 then 2 else 1

/-- The "writes" column of 20_memory.md R70 as (base, size) pairs. -/
def writeIntervals (r : Regs) : Instr → List (Nat × Nat)
  | .nop | .matchColour _ _ _ | .sample _ _ => []
  | .dgrey | .copy1 => [(r.dst0Base.toNat, planeSize r (modeBits r))]
  | .pack => packIntervals r
  | .dcolor | .vflip | .mirror | .rot180 | .invert => [srcInterval r]
  | .rot90 | .rot270 => if r.srcBpp = 4 then [scrInterval r] else []

/-- The regions V7 checks as (base, size) pairs (20_memory.md R70, R71): SRC for every source command, and what the
command writes. -/
def checkedIntervals (r : Regs) : Instr → List (Nat × Nat)
  | .nop | .matchColour _ _ _ => []
  | i => srcInterval r :: writeIntervals r i

/-- The "refused overlaps" column of 20_memory.md R70: the regions that must be pairwise apart. -/
def apartIntervals (r : Regs) : Instr → List (Nat × Nat)
  | .dgrey | .copy1 => [srcInterval r, (r.dst0Base.toNat, planeSize r (modeBits r))]
  | .pack => srcInterval r :: packIntervals r
  | .rot90 | .rot270 => if r.srcBpp = 4 then [srcInterval r, scrInterval r] else []
  | .nop | .matchColour _ _ _ | .sample _ _ | .dcolor | .vflip | .mirror | .rot180 | .invert => []

/-- V4 fails, row by row of 40_command.md R123. -/
def ConfigFails (r : Regs) : Instr → Prop
  | .matchColour _ _ _ | .pack => 5 ≤ r.mode.toNat
  | .dgrey => r.mode ≠ 0
  | .dcolor => (r.mode ≠ 1 ∧ r.mode ≠ 2 ∧ r.mode ≠ 3) ∨ (r.srcBpp ≠ 24 ∧ r.srcBpp ≠ 32)
  | .copy1 => r.mode ≠ 0 ∨ r.srcBpp ≠ 1
  | .nop | .sample _ _ | .vflip | .mirror | .rot90 | .rot180 | .rot270 | .invert => False

/-- The check whose error has the code `n` fails for command `i` (40_command.md R123, 60_exceptions.md R301). -/
def CheckFails (s : State) (i : Instr) : Nat → Prop
  | 2 => ReadsSource i ∧
      (s.regs.srcWidth = 0 ∨ s.regs.srcHeight = 0 ∨ s.regs.srcBpp.toNat ∉ [1, 4, 8, 24, 32])
  | 3 => ReadsSource i ∧
      ¬(s.regs.srcPitch.toNat % 4 = 0 ∧
        leastPitch s.regs.srcWidth.toNat s.regs.srcBpp.toNat ≤ s.regs.srcPitch.toNat)
  | 4 => ConfigFails s.regs i
  | 5 => (i = .dgrey ∨ i = .dcolor) ∧ s.params.maxW < s.regs.srcWidth.toNat
  | 6 => ∃ x y, i = .sample x y ∧ (s.regs.srcWidth.toNat ≤ x ∨ s.regs.srcHeight.toNat ≤ y)
  | 7 => ∃ g ∈ checkedIntervals s.regs i, s.params.memSize < g.1 + g.2
  | 8 => ¬(apartIntervals s.regs i).Pairwise fun g h => Apart g.1 g.2 h.1 h.2
  | _ => False

/-! ## The host -/

/-- The host's next action is `e`. -/
def State.queue (s : State) (e : HostEvent) : State := { s with inputs := e :: s.inputs }

end Sys2Proof.Machine
end

