-- ==== Sys2Proof/Certificates/Slice0/Obligations.lean ====
section
/-! DEFINITION. The statements for the provers: what spec/ says that EPDQ does, over all states. -/

open Sys2Proof Sys2Proof.Machine

/-! ## The command word -/

/-- Decoding the encoding of a well-formed command gives the command back (30_encoding.md R90 to R92, R97). -/
def Obligations.DecodeOfEncodeIsTheCommand : Prop := ∀ i : Instr, i.WellFormed → decode (encode i) = .ok i

/-- A word that decodes to a command is that command's encoding, and the command is well formed. -/
def Obligations.EncodeOfDecodeIsTheWord : Prop :=
  ∀ (w : Word) (i : Instr), decode w = .ok i → encode i = w ∧ i.WellFormed

/-- 30_encoding.md R96: each word is in one row of the opcode map, the decoded command's, or in none, and then it is
illegal. -/
def Obligations.EveryWordIsOneCommandOrIllegal : Prop :=
  ∀ w : Word,
    (∃ i row, decode w = .ok i ∧ row ∈ opcodeRows ∧ rowMatches row w = true ∧ rowMatches row (encode i) = true ∧
        ∀ row' ∈ opcodeRows, rowMatches row' w = true → row' = row) ∨
      ((∃ e, decode w = .error e) ∧ ∀ row ∈ opcodeRows, rowMatches row w = false)

/-- Words written out from 30_encoding.md R91 and R92 decode to the commands they stand for. -/
def Obligations.WrittenOutWordsDecode : Prop :=
  decode 0x00000000 = .ok .nop ∧ decode 0x01007001 = .ok (.sample 7 1) ∧
    decode 0x0278463C = .ok (.matchColour 120 70 60) ∧ decode 0x10000000 = .ok .dgrey ∧
    decode 0x21000000 = .ok .copy1 ∧ decode 0x34000000 = .ok .rot270

/-- 30_encoding.md R93, R94: an accepted word with a reserved OP, or a Z-format OP and an operand that is not zero,
ends with ILLEGAL_COMMAND and has no other effect; an XY or RGB word is never illegal. That `raced`, the model's own
field, falls is the model's choice (log entry 8). -/
def Obligations.IllegalWordsEndInIllegalCommand : Prop :=
  (∀ s : State, s.status.busy = true →
      ((s.cmdWord.toNat / 2 ^ 24 ∉
            [0x00, 0x01, 0x02, 0x10, 0x11, 0x20, 0x21, 0x30, 0x31, 0x32, 0x33, 0x34, 0x35]) ∨
          (s.cmdWord.toNat / 2 ^ 24 ∈ [0x00, 0x10, 0x11, 0x20, 0x21, 0x30, 0x31, 0x32, 0x33, 0x34, 0x35] ∧
            s.cmdWord.toNat % 2 ^ 24 ≠ 0)) →
      step (s.queue .engineTurn) = .next { errorState s 1 with raced := false } ∧
        (s.inputs = [] → step s = .next { errorState s 1 with raced := false })) ∧
    ∀ w : Word, w.toNat / 2 ^ 24 = 0x01 ∨ w.toNat / 2 ^ 24 = 0x02 → ∃ i, decode w = .ok i

/-! ## The step -/

/-- While BUSY, when the host has nothing to do or waits, the step runs the decoded command: it is `exec`, and after a
broken 20_memory.md R75 what `settleRace` adds. An idle engine waits, whatever word it last accepted, an illegal one
included. Whose turn it is, the races and the kept word are the model's choices (log entries 6, 7, 8 and 19). -/
def Obligations.StepRunsTheDecodedCommand : Prop :=
  ∀ s : State,
    (∀ i, decode s.cmdWord = .ok i → s.status.busy = true →
      (s.raced = false → step (s.queue .engineTurn) = exec i s ∧ (s.inputs = [] → step s = exec i s)) ∧
        ∀ t, exec i s = .next t →
          step (s.queue .engineTurn) = .next (settleRace i s t) ∧
            (s.inputs = [] → step s = .next (settleRace i s t))) ∧
      (s.status.busy = false → step (s.queue .engineTurn) = .next s ∧ (s.inputs = [] → step s = .next s))

/-- An instruction placed by `withFetchWord` is the accepted command, and the very next step runs it; the host's own
pending actions wait. `withFetchWord` is the model's (log entry 2). -/
def Obligations.PlacedInstructionRunsNext : Prop :=
  ∀ (s : State) (i : Instr), i.WellFormed →
    (s.withFetchWord 32 (encode i).toNat).cmdWord = encode i ∧
      (s.withFetchWord 32 (encode i).toNat).status.busy = true ∧
      step (s.withFetchWord 32 (encode i).toNat) =
        exec i { s.withFetchWord 32 (encode i).toNat with inputs := s.inputs }

/-- 40_command.md R120, R122: a write to CMD while BUSY and ERR are 0 is accepted: BUSY rises, DONE falls, the word is
kept and nothing else that spec/ names changes; `raced`, which falls too, is the model's own field (log entry 8). No
other step starts a command. -/
def Obligations.OnlyAnAcceptedCmdWriteStartsACommand : Prop :=
  (∀ (s : State) (w : Word), s.inReset = false → s.status.busy = false → s.status.err = false →
      step (s.queue (.regWrite 0x00C .word w)) =
        .next { s with status := { s.status with busy := true, done := false }, cmdWord := w, raced := false }) ∧
    ∀ s t : State, step s = .next t → s.status.busy = false → t.status.busy = true →
      ∃ w rest, s.inputs = .regWrite 0x00C .word w :: rest ∧ s.inReset = false ∧ s.status.err = false

/-- 40_command.md R121: a write to CMD while BUSY or ERR is 1 is dropped and sets OVERRUN; nothing else changes. -/
def Obligations.CmdWriteWhileBusyOrErrIsDropped : Prop :=
  ∀ (s : State) (w : Word), s.inReset = false → s.status.busy = true ∨ s.status.err = true →
    step (s.queue (.regWrite 0x00C .word w)) = .next { s with status := { s.status with overrun := true } }

/-- 10_state.md R45: while BUSY is 1 a host write to any offset but STATUS is ignored and sets OVERRUN; a host read is
always answered, as it would be were the engine idle (but for STATUS), and changes no register. -/
def Obligations.WritesWhileBusyAreIgnored : Prop :=
  ∀ (s : State) (o : BitVec 11), s.inReset = false → s.status.busy = true → o.toNat % 4 = 0 →
    (∀ v, o ≠ 0x008 →
        step (s.queue (.regWrite o .word v)) = .next { s with status := { s.status with overrun := true } }) ∧
      ∃ v, step (s.queue (.regRead o .word)) = .next { s with readData := v } ∧
        (o ≠ 0x008 →
          step (({ s with status := { s.status with busy := false } } : State).queue (.regRead o .word)) =
            .next { s with status := { s.status with busy := false }, readData := v })

/-- 10_state.md R24, 60_exceptions.md R312: a write to STATUS clears DONE, ERR with ERR_CODE, OVERRUN and GEOM_SKIP
where bits 1, 2, 3 and 4 are 1, whether or not BUSY is 1, and nothing else. -/
def Obligations.StatusWriteAcknowledges : Prop :=
  ∀ (s : State) (v : Word), s.inReset = false →
    step (s.queue (.regWrite 0x008 .word v)) =
      .next
        { s with
          status :=
            { busy := s.status.busy
              done := if v.toNat / 2 % 2 = 1 then false else s.status.done
              err := if v.toNat / 4 % 2 = 1 then false else s.status.err
              overrun := if v.toNat / 8 % 2 = 1 then false else s.status.overrun
              geomSkip := if v.toNat / 16 % 2 = 1 then false else s.status.geomSkip
              errCode := if v.toNat / 4 % 2 = 1 then 0 else s.status.errCode } }

/-- The RW registers of 10_state.md R20 but STATUS and CMD: the offset and the bits each implements (R23, R31 to R41). -/
def rwRegisters : List (BitVec 11 × Word) :=
  [(0x004, 0x1F), (0x040, 0xFFFFFFFF), (0x044, 0xFFFF), (0x048, 0xFFFF), (0x04C, 0x3F), (0x050, 0xFFFFFFFF),
    (0x054, 0xFFFFFFFF), (0x058, 0xFFFFFFFF), (0x05C, 0xFFFFFFFF), (0x080, 0xFF), (0x084, 0xFFFF), (0x088, 0xFFFF),
    (0x08C, 0xFFFFFF), (0x090, 0xFFFFFF), (0x094, 0xFFFFFF)]
    ++ (List.range 256).map fun i => (BitVec.ofNat 11 (0x400 + 4 * i), 0xFFFFFF)

/-- The registers of 10_state.md R20 a host write never changes, or changes by W1C only, with the bits each
implements (R22, R24 to R30). -/
def otherRegisters : List (BitVec 11 × Word) :=
  [(0x000, 0xFFFFFFFF), (0x008, 0xF1F), (0x00C, 0), (0x010, 0xFFFFFFFF), (0x014, 0xFFFFFFFF), (0x018, 0x1FFFF),
    (0x01C, 0xFFFFFFFF), (0x020, 3)]

/-- 10_state.md R44: a reserved offset reads 0 and ignores writes; a reserved bit of a listed register reads 0 and
ignores writes, those of STATUS included; a write to an RO register is ignored. -/
def Obligations.ReservedOffsetsAndBits : Prop :=
  ∀ s : State, s.inReset = false →
    (∀ o : BitVec 11, o.toNat % 4 = 0 → (∀ e ∈ rwRegisters ++ otherRegisters, e.1 ≠ o) →
        step (s.queue (.regRead o .word)) = .next { s with readData := 0 } ∧
          ∀ v, s.status.busy = false → step (s.queue (.regWrite o .word v)) = .next s) ∧
      (∀ e ∈ rwRegisters ++ otherRegisters,
        ∃ v, step (s.queue (.regRead e.1 .word)) = .next { s with readData := v } ∧ v &&& ~~~e.2 = 0) ∧
      (∀ e ∈ rwRegisters, ∀ v,
        step (s.queue (.regWrite e.1 .word v)) = step (s.queue (.regWrite e.1 .word (v &&& e.2)))) ∧
      (∀ v, step (s.queue (.regWrite 0x008 .word v)) = step (s.queue (.regWrite 0x008 .word (v &&& 0x1E)))) ∧
      ∀ o ∈ [(0x000 : BitVec 11), 0x010, 0x014, 0x018, 0x01C, 0x020], ∀ v, s.status.busy = false →
        step (s.queue (.regWrite o .word v)) = .next s

/-- 10_state.md R20, R23, R31 to R41: while the engine is idle a write to a RW register is read back in the bits the
register implements, and no other register, nor anything but the registers, changes. -/
def Obligations.RegisterWriteIsReadBack : Prop :=
  ∀ s : State, s.inReset = false → s.status.busy = false → ∀ e ∈ rwRegisters, ∀ v, ∃ t,
    step (s.queue (.regWrite e.1 .word v)) = .next t ∧ t = { s with regs := t.regs } ∧
      step (t.queue (.regRead e.1 .word)) = .next { t with readData := v &&& e.2 } ∧
      ∀ o : BitVec 11, o.toNat % 4 = 0 → o ≠ e.1 →
        ∃ u, step (s.queue (.regRead o .word)) = .next { s with readData := u } ∧
          step (t.queue (.regRead o .word)) = .next { t with readData := u }

/-! ## Reset -/

/-- The reset values of 10_state.md R20 and R47. -/
def resetValues : List (BitVec 11 × Word) :=
  [(0x000, 0x45504451), (0x004, 0), (0x008, 0), (0x00C, 0), (0x010, 0), (0x014, 0), (0x018, 0), (0x01C, 0), (0x020, 0),
    (0x040, 0), (0x044, 0), (0x048, 0), (0x04C, 0), (0x050, 0), (0x054, 0), (0x058, 0), (0x05C, 0), (0x080, 0x64),
    (0x084, 0x5064), (0x088, 0x505A), (0x08C, 0x462020), (0x090, 0xFF0000), (0x094, 0xFFFF00)]

/-- 10_state.md R47: what every register but the palette reads after reset, and the interrupt output is low. -/
def Obligations.ResetRegisterValues : Prop :=
  (∀ e ∈ resetValues,
      step (State.reset.queue (.regRead e.1 .word)) = .next { State.reset with readData := e.2 }) ∧
    irq State.reset = false

/-- 70_reset_and_hazards.md R342: asserting reset leaves every byte outside the write regions of the command it
interrupts as it was; with no command running, all of memory. What the write regions are where 20_memory.md R70 and
44_packer.md R220 have no row is the model's deduction (log entry 9): an illegal word and a PACK in a reserved mode have
none, and a DGREY or COPY1 in a reserved mode counts with 1 bit a pixel. -/
def Obligations.ResetKeepsMemory : Prop :=
  ∀ s : State, ∃ t, step (s.queue .assertReset) = .next t ∧
    (s.status.busy = false ∨ (∃ e, decode s.cmdWord = .error e) → MemoryKept s t) ∧
    ∀ i, decode s.cmdWord = .ok i →
      ∀ a, (∀ g ∈ writeIntervals s.regs i, ¬(g.1 ≤ a ∧ a < g.1 + g.2)) → Mem.read t.mem a = Mem.read s.mem a

/-- 70_reset_and_hazards.md R340, R343: from any state, asserting and releasing reset leaves the engine idle, every
register of R47 at its reset value, the interrupt low and DONE 0; while reset is asserted a host write is ignored. That
the interrupt is low from assertion on, and OVERRUN stays, is the model's (log entries 17 and 11). -/
def Obligations.PlatformResetRestoresRegisters : Prop :=
  ∀ s : State, ∃ t, step (s.queue .assertReset) = .next t ∧ t.inputs = s.inputs ∧ irq t = false ∧
    (∀ o v, o.toNat % 4 = 0 → step (t.queue (.regWrite o .word v)) = .next t) ∧
    ∃ u, step (t.queue .releaseReset) = .next u ∧ u.status = Status.reset ∧ irq u = false ∧ u.mem = t.mem ∧
      ∀ e ∈ resetValues, step (u.queue (.regRead e.1 .word)) = .next { u with readData := e.2 }

/-- 70_reset_and_hazards.md R344: after reset NOP and MATCH complete at once (MATCH in BINARY mode with threshold 100),
and every command that reads a source ends with INVALID_SOURCE. -/
def Obligations.ReadyAfterReset : Prop :=
  ∀ w : Word, ∃ s, step (State.reset.queue (.regWrite 0x00C .word w)) = .next s ∧
    (decode w = .ok .nop → ∃ t, step s = .next t ∧ t.status = { Status.reset with done := true }) ∧
    (∀ r g b, decode w = .ok (.matchColour r g b) →
        ∃ t, step s = .next t ∧ t.status = { Status.reset with done := true } ∧
          t.regs.result.toNat = (2 * g + r + b) / 4 * 256 + (if 100 ≤ (2 * g + r + b) / 4 then 1 else 0)) ∧
    ∀ i, decode w = .ok i → ReadsSource i → step s = .next (errorState s 2)

/-- 70_reset_and_hazards.md R343, 40_command.md R125 to R127: a running command ends by completing, with DONE, or is
abandoned by reset; nothing else ends it. -/
def Obligations.OnlyResetAbandonsACommand : Prop :=
  ∀ s t : State, step s = .next t → s.status.busy = true → t.status.busy = false →
    t.status.done = true ∨ ∃ rest, s.inputs = .assertReset :: rest ∧ t.status = Status.reset

/-! ## Every command -/

/-- 40_command.md R125 to R127: every command ends, with BUSY 0 and DONE 1; none stops the machine. That a 4- or 8-bpp
sample of a palette entry not written since reset does not stop it either is the model's choice (log entry 3;
41_sampler.md R146 and I3 would have a fault or any value). -/
def Obligations.EveryCommandEnds : Prop :=
  ∀ (i : Instr) (s : State), ∃ t, exec i s = .next t ∧ t.status.busy = false ∧ t.status.done = true ∧
    t.status.overrun = s.status.overrun

/-- 40_command.md R123, R127, 60_exceptions.md R300, R310: the first check that fails, in the order of the codes, ends
the command with its code and leaves everything but STATUS and ERR_CMD as it was; a command that fails none completes
without an error. That it does so over a palette entry not written since reset too is the model's choice (log entry 3;
41_sampler.md R146 and I3). -/
def Obligations.FirstFailedCheckNamesTheError : Prop :=
  ∀ (i : Instr) (s : State),
    (∀ n, CheckFails s i n → (∀ k, k < n → ¬CheckFails s i k) → exec i s = .next (errorState s n)) ∧
      ((∀ n, ¬CheckFails s i n) →
        ∃ t, exec i s = .next t ∧ t.status.err = s.status.err ∧ t.status.errCode = s.status.errCode ∧
          t.regs.errCmd = s.regs.errCmd)

/-- 60_exceptions.md R307: COORD_RANGE is SAMPLE's alone, and is raised for a coordinate outside the image by a SAMPLE
that fails no earlier check. -/
def Obligations.CoordRangeIsSamplesAlone : Prop :=
  (∀ (s : State) (x y : Nat), (∀ k, k < 6 → ¬CheckFails s (.sample x y) k) →
      s.regs.srcWidth.toNat ≤ x ∨ s.regs.srcHeight.toNat ≤ y →
      exec (.sample x y) s = .next (errorState s 6)) ∧
    ∀ (i : Instr) (s t : State), exec i s = .next t → s.status.err = false → t.status.err = true →
      t.status.errCode = 6 →
      ∃ x y, i = .sample x y ∧ (s.regs.srcWidth.toNat ≤ x ∨ s.regs.srcHeight.toNat ≤ y)

/-- The registers after a 4-bpp rotation (45_geometry.md R258). -/
def rotatedRegs (r : Regs) : Regs :=
  { r with
    srcBase := r.scratchBase, scratchBase := r.srcBase, srcWidth := r.srcHeight, srcHeight := r.srcWidth,
    srcPitch := BitVec.ofNat 32 (leastPitch r.srcHeight.toNat 4) }

/-- The registers after a command that published `np` planes of `bps` bits a pixel (44_packer.md R221). -/
def publishedRegs (r : Regs) (np bps : Nat) : Regs :=
  { r with
    dstPitch := BitVec.ofNat 17 ((r.srcWidth.toNat * bps + 7) / 8), planeBytes := BitVec.ofNat 32 (planeSize r bps)
    planes := BitVec.ofNat 2 np }

/-- The registers after a command that failed no check (10_state.md R27 to R30, R46): RESULT holds the pixel after
SAMPLE, the luma and the symbol after MATCH; PACK, DGREY and COPY1 publish the metadata; a 4-bpp ROT90 or ROT270
exchanges the source registers; every other command writes none. -/
def registersAfter (s : State) : Instr → Regs
  | .sample x y =>
    let c := sample s.regs s.mem x y
    { s.regs with result := BitVec.ofNat 32 (c.r.toNat * 2 ^ 16 + c.g.toNat * 2 ^ 8 + c.b.toNat) }
  | .matchColour r g b =>
    let c := operandColour r g b
    match modeOf s.regs.mode with
    | some m =>
      { s.regs with
        result :=
          BitVec.ofNat 32
            ((2 * c.g.toNat + c.r.toNat + c.b.toNat) / 4 * 2 ^ 8 + (matchSymbol m s.regs c).toNat) }
    | none => s.regs
  | .pack =>
    if s.regs.mode = 0 then publishedRegs s.regs 1 1
    else if s.regs.mode = 3 then publishedRegs s.regs 1 2
    else publishedRegs s.regs 2 1
  | .dgrey | .copy1 => publishedRegs s.regs 1 1
  | .rot90 | .rot270 => if s.regs.srcBpp = 4 then rotatedRegs s.regs else s.regs
  | .nop | .dcolor | .vflip | .mirror | .rot180 | .invert => s.regs

/-- A command that failed no check sets GEOM_SKIP: the mirror of a 1-bpp image whose width is no multiple of 8
(45_geometry.md R253, R256), and a rotation by 90 or 270 degrees at a depth other than 4 (R260). -/
def skipsWork (r : Regs) : Instr → Bool
  | .mirror | .rot180 => decide (r.srcBpp = 1 ∧ r.srcWidth.toNat % 8 ≠ 0)
  | .rot90 | .rot270 => decide (r.srcBpp ≠ 4)
  | .nop | .sample _ _ | .matchColour _ _ _ | .dgrey | .dcolor | .pack | .copy1 | .vflip | .invert => false

/-- 10_state.md R46: at its end every command writes BUSY 0 and DONE 1. One that failed no check leaves the registers of
`registersAfter`, sets GEOM_SKIP where it skips work and leaves the rest of STATUS as it was; one that ends with an error
writes ERR_CMD. The registers a command writes are those of R46, and no other, OVERRUN included. The RESULT of a SAMPLE
of a palette entry not written since reset, and of a MATCH with an ill-formed operand, rests on the model's choices (log
entries 3 and 18). -/
def Obligations.EngineWritesOnlyItsRegisters : Prop :=
  ∀ (i : Instr) (s t : State), exec i s = .next t →
    (t.status.busy = false ∧ t.status.done = true) ∧
      ((∀ n, ¬CheckFails s i n) → CompletedWith s t (registersAfter s i) (skipsWork s.regs i)) ∧
      ((∃ n, CheckFails s i n) → t.regs = { s.regs with errCmd := s.cmdWord }) ∧
      t.regs =
        { s.regs with
          errCmd := t.regs.errCmd, result := t.regs.result, dstPitch := t.regs.dstPitch,
          planeBytes := t.regs.planeBytes, planes := t.regs.planes, srcBase := t.regs.srcBase,
          scratchBase := t.regs.scratchBase, srcWidth := t.regs.srcWidth, srcHeight := t.regs.srcHeight,
          srcPitch := t.regs.srcPitch } ∧
      t.status.overrun = s.status.overrun ∧
      (t.status.err = false → t.regs.errCmd = s.regs.errCmd) ∧
      (t.status.err = true → s.status.err = false → t.regs = { s.regs with errCmd := s.cmdWord }) ∧
      ((∀ x y, i ≠ .sample x y) → (∀ r g b, i ≠ .matchColour r g b) → t.regs.result = s.regs.result) ∧
      (i ≠ .pack → i ≠ .dgrey → i ≠ .copy1 →
        t.regs.dstPitch = s.regs.dstPitch ∧ t.regs.planeBytes = s.regs.planeBytes ∧ t.regs.planes = s.regs.planes) ∧
      ((i ≠ .rot90 ∧ i ≠ .rot270) ∨ s.regs.srcBpp ≠ 4 →
        t.regs.srcBase = s.regs.srcBase ∧ t.regs.scratchBase = s.regs.scratchBase ∧
          t.regs.srcWidth = s.regs.srcWidth ∧ t.regs.srcHeight = s.regs.srcHeight ∧
          t.regs.srcPitch = s.regs.srcPitch)

/-- 20_memory.md R79: a command writes no byte outside its write regions, and a command that ends with an error writes
no memory at all. -/
def Obligations.WritesStayInTheWriteRegions : Prop :=
  ∀ (i : Instr) (s t : State), exec i s = .next t →
    (∀ a, (∀ g ∈ writeIntervals s.regs i, ¬(g.1 ≤ a ∧ a < g.1 + g.2)) → Mem.read t.mem a = Mem.read s.mem a) ∧
      (s.status.err = false → t.status.err = true → t.mem = s.mem)

/-- 20_memory.md R73, 10_state.md R42 and R43: what a command leaves is fixed by the registers and the bytes of the
source at its acceptance; nothing the line buffers, the packer, the write regions or the rest of memory hold shows in
the registers, the source or the write regions. -/
def Obligations.OutcomeDependsOnTheSourceAlone : Prop :=
  ∀ (i : Instr) (s s' t t' : State), s'.params = s.params → s'.regs = s.regs → s'.status = s.status →
    s'.cmdWord = s.cmdWord →
    (ReadsSource i → ∀ a, (srcInterval s.regs).1 ≤ a → a < (srcInterval s.regs).1 + (srcInterval s.regs).2 →
      Mem.read s'.mem a = Mem.read s.mem a) →
    exec i s = .next t → exec i s' = .next t' →
    t'.regs = t.regs ∧ t'.status = t.status ∧
      (ReadsSource i → ∀ a, (srcInterval s.regs).1 ≤ a → a < (srcInterval s.regs).1 + (srcInterval s.regs).2 →
        Mem.read t'.mem a = Mem.read t.mem a) ∧
      (s.status.err = false → t.status.err = false →
        ∀ g ∈ writeIntervals s.regs i, ∀ a, g.1 ≤ a → a < g.1 + g.2 → Mem.read t'.mem a = Mem.read t.mem a)

/-! ## The invariant -/

/-- The invariant holds right after reset. The parameters, the line buffers' contents and the memory's contents there are
the model's choices (log entries 1, 4 and 5). -/
def Obligations.InvHoldsAtReset : Prop := Inv State.reset

/-- Every step keeps the invariant: among its clauses, no command lists a byte at or past `MEM_SIZE` (20_memory.md R71),
and BUSY and ERR are never 1 together (10_state.md R24). That the registers hold their reset values from the assertion
of reset on, and `raced`, are the model's (log entries 17 and 8). -/
def Obligations.EveryStepKeepsTheInvariant : Prop := ∀ s t : State, Inv s → step s = .next t → Inv t

/-- The parameters of a machine never change (00_scope.md R5). That State carries them is the model's choice (log entry
1). -/
def Obligations.ParametersNeverChange : Prop := ∀ s t : State, step s = .next t → t.params = s.params

/-! ## NOP, SAMPLE and MATCH -/

/-- 40_command.md R129: NOP completes at once; BUSY falls and DONE rises, and no register nor memory changes. -/
def Obligations.NopCompletes : Prop :=
  ∀ s : State, ∃ t, exec .nop s = .next t ∧ CompletedWith s t s.regs false ∧ t.mem = s.mem ∧ LinesKept s t

/-- 41_sampler.md R140 to R147: SAMPLE of a pixel of the image completes, RESULT is the pixel by the source's depth,
and nothing else changes. At 4 and 8 bpp that holds of a palette entry not written since reset too, which is the model's
choice (log entry 3; R146 and I3 would have a fault or any value). -/
def Obligations.SampleReadsThePixel : Prop :=
  ∀ (s : State) (x y : Nat), SourceReady s → x < s.regs.srcWidth.toNat → y < s.regs.srcHeight.toNat →
    ∃ (t : State) (v : Word), exec (.sample x y) s = .next t ∧
      CompletedWith s t { s.regs with result := v } false ∧ t.mem = s.mem ∧ LinesKept s t ∧
      (s.regs.srcBpp = 1 → v = if rowBit s.mem (srcRow s.regs y) x then 0 else 0xFFFFFF) ∧
      (s.regs.srcBpp = 4 →
        ∀ i : Fin 256, i.val = rowNibble s.mem (srcRow s.regs y) x → v = s.regs.pal[i].setWidth 32) ∧
      (s.regs.srcBpp = 8 →
        ∀ i : Fin 256, i.val = (Mem.read s.mem (srcRow s.regs y + x)).toNat → v = s.regs.pal[i].setWidth 32) ∧
      (s.regs.srcBpp = 24 →
        v.toNat = (Mem.read s.mem (srcRow s.regs y + 3 * x + 2)).toNat * 2 ^ 16
          + (Mem.read s.mem (srcRow s.regs y + 3 * x + 1)).toNat * 2 ^ 8
          + (Mem.read s.mem (srcRow s.regs y + 3 * x)).toNat) ∧
      (s.regs.srcBpp = 32 →
        v.toNat = (Mem.read s.mem (srcRow s.regs y + 4 * x + 2)).toNat * 2 ^ 16
          + (Mem.read s.mem (srcRow s.regs y + 4 * x + 1)).toNat * 2 ^ 8
          + (Mem.read s.mem (srcRow s.regs y + 4 * x)).toNat)

/-- 42_matcher.md R160 to R168, R170: MATCH in a mode that is not reserved completes, RESULT holds the luma and the
symbol of the mode's matcher, and nothing else changes. -/
def Obligations.MatchWritesLumaAndSymbol : Prop :=
  ∀ (s : State) (r g b : Nat), (Instr.matchColour r g b).WellFormed → s.regs.mode.toNat ≤ 4 →
    ∃ (t : State) (sym : Nat), exec (.matchColour r g b) s = .next t ∧
      CompletedWith s t { s.regs with result := BitVec.ofNat 32 ((2 * g + r + b) / 4 * 2 ^ 8 + sym) } false ∧
      t.mem = s.mem ∧ LinesKept s t ∧
      (let gr := (2 * g + r + b) / 4
       let grey := if s.regs.thrGrey.toNat ≤ gr then 1 else 0
       let red : Prop := (s.regs.marginRB.toNat : Int) < r - b ∧ (s.regs.marginRG.toNat : Int) < r - g
       let yellow : Prop := (s.regs.marginY.toNat : Int) < r - b ∧ (s.regs.marginY.toNat : Int) < g - b
       let dark3 : Prop := gr < s.regs.thr3Luma.toNat ∧ r < s.regs.thr3Chan.toNat
       let dark4 : Prop :=
         gr < s.regs.thr4Luma.toNat ∨ (r < s.regs.thr4Chan.toNat ∧ g < s.regs.thr4Chan.toNat)
       (s.regs.mode = 0 → sym = grey) ∧
         (s.regs.mode = 1 → (¬b < r → sym = grey) ∧ (b < r → dark3 → sym = 0) ∧ (b < r → ¬dark3 → red → sym = 2) ∧
           (b < r → ¬dark3 → ¬red → sym = 1)) ∧
         (s.regs.mode = 2 → (¬(b < r ∧ b < g) → sym = grey) ∧ (b < r ∧ b < g → dark3 → sym = 0) ∧
           (b < r ∧ b < g → ¬dark3 → yellow → sym = 2) ∧ (b < r ∧ b < g → ¬dark3 → ¬yellow → sym = 1)) ∧
         (s.regs.mode = 3 → (¬b < r → sym = grey) ∧ (b < r → dark4 → sym = 0) ∧ (b < r → ¬dark4 → red → sym = 3) ∧
           (b < r → ¬dark4 → ¬red → yellow → sym = 2) ∧ (b < r → ¬dark4 → ¬red → ¬yellow → sym = 1)) ∧
         (s.regs.mode = 4 → sym = gr / 2 ^ 6))

/-- 42_matcher.md R171: for a pure grey pixel the luma is its value; BINARY, BWR, BWY and BWYR give white from THR_GREY
on and else black, never a chromatic symbol; GRAY4 gives the two top bits. -/
def Obligations.PureGreyTakesTheGreyPath : Prop :=
  ∀ (s : State) (v : Nat), v ≤ 255 → s.regs.mode.toNat ≤ 4 →
    ∃ t, exec (.matchColour v v v) s = .next t ∧ t.regs.result.toNat / 2 ^ 8 = v ∧
      (s.regs.mode ≠ 4 → t.regs.result.toNat % 2 ^ 8 = if s.regs.thrGrey.toNat ≤ v then 1 else 0) ∧
      (s.regs.mode = 4 → t.regs.result.toNat % 2 ^ 8 = v / 2 ^ 6)

/-! ## DGREY and DCOLOR -/

/-- 43_dither.md R190 to R194: DGREY completes; there are residuals such that each output bit is the top bit of the
clipped sum of two thirds of the pixel's luma and the error it receives, and each residual is that sum less the
quantised value; the pad bits of every row of plane 0 are 0 (R193, 44_packer.md R222). Only plane 0, its metadata and
the line buffers of channel 0 change. At 4 and 8 bpp, completion over palette entries not written since reset is the
model's choice (log entry 3). -/
def Obligations.DgreyDiffusesTheError : Prop :=
  ∀ s : State, s.regs.mode = 0 → SourceReady s → Plane0Ready s 1 → s.regs.srcWidth.toNat ≤ s.params.maxW →
    ∃ (t : State) (e : Nat → Nat → Int), exec .dgrey s = .next t ∧
      (let dp := (s.regs.srcWidth.toNat + 7) / 8
       CompletedWith s t
           { s.regs with
             dstPitch := BitVec.ofNat 17 dp, planeBytes := BitVec.ofNat 32 (dp * s.regs.srcHeight.toNat), planes := 1 }
           false ∧
         t.eng.ch1 = s.eng.ch1 ∧ t.eng.ch2 = s.eng.ch2 ∧
         MemoryKeptOutside s t s.regs.dst0Base.toNat (planeSize s.regs 1) ∧
         (∀ y k, y < s.regs.srcHeight.toNat → s.regs.srcWidth.toNat ≤ k → k < 8 * dp →
           rowBit t.mem (s.regs.dst0Base.toNat + y * dp) k = false) ∧
         ∀ y x, y < s.regs.srcHeight.toNat → x < s.regs.srcWidth.toNat →
           let c := sample s.regs s.mem x y
           let v := clip (2 * ((2 * c.g.toNat + c.r.toNat + c.b.toNat) / 4) / 3 +
             receivedError s.regs.srcWidth.toNat e y x)
           unpack t.mem s.regs.dst0Base.toNat dp 1 x y = (if 128 ≤ v then 1 else 0) ∧
             e y x = if 128 ≤ v then v - 255 else v)

/-- 43_dither.md R190 to R192, R195: DCOLOR completes; there are residuals for each component such that each pixel is
rewritten with the colour of the symbol that matches the clipped sums of its components and the errors they receive,
and each residual is that sum less the written component. Only the colour bytes of the pixels and the line buffers
change. -/
def Obligations.DcolorDiffusesTheErrors : Prop :=
  ∀ (s : State) (m : Mode), modeOf s.regs.mode = some m → m = .bwr ∨ m = .bwy ∨ m = .bwyr → SourceReady s →
    s.regs.srcBpp = 24 ∨ s.regs.srcBpp = 32 → s.regs.srcWidth.toNat ≤ s.params.maxW →
    ∃ (t : State) (e0 e1 e2 : Nat → Nat → Int), exec .dcolor s = .next t ∧ CompletedWith s t s.regs false ∧
      (let n := s.regs.srcBpp.toNat / 8
       (∀ a, (∀ y x j, y < s.regs.srcHeight.toNat → x < s.regs.srcWidth.toNat → j < 3 →
             a ≠ srcRow s.regs y + n * x + j) → Mem.read t.mem a = Mem.read s.mem a) ∧
         ∀ y x, y < s.regs.srcHeight.toNat → x < s.regs.srcWidth.toNat →
           let w := s.regs.srcWidth.toNat
           let a := srcRow s.regs y + n * x
           let v0 := clip ((Mem.read s.mem (a + 2)).toNat + receivedError w e0 y x)
           let v1 := clip ((Mem.read s.mem (a + 1)).toNat + receivedError w e1 y x)
           let v2 := clip ((Mem.read s.mem a).toNat + receivedError w e2 y x)
           let q := symColour m s.regs (matchSymbol m s.regs
             { r := BitVec.ofInt 8 v0, g := BitVec.ofInt 8 v1, b := BitVec.ofInt 8 v2 })
           Mem.read t.mem (a + 2) = q.r ∧ Mem.read t.mem (a + 1) = q.g ∧ Mem.read t.mem a = q.b ∧
             e0 y x = v0 - q.r.toNat ∧ e1 y x = v1 - q.g.toNat ∧ e2 y x = v2 - q.b.toNat)

/-- 42_matcher.md R169: the colour of each symbol of the modes DCOLOR takes. -/
def Obligations.SymbolColours : Prop :=
  ∀ (m : Mode) (r : Regs), m = .bwr ∨ m = .bwy ∨ m = .bwyr →
    symColour m r 0 = { r := 0, g := 0, b := 0 } ∧ symColour m r 1 = { r := 255, g := 255, b := 255 } ∧
      (∀ c : BitVec 24, c = (if m = .bwr then r.colorRed else r.colorYel) →
        (symColour m r 2).r.toNat = c.toNat / 2 ^ 16 ∧ (symColour m r 2).g.toNat = c.toNat / 2 ^ 8 % 2 ^ 8 ∧
          (symColour m r 2).b.toNat = c.toNat % 2 ^ 8) ∧
      (m = .bwyr →
        (symColour m r 3).r.toNat = r.colorRed.toNat / 2 ^ 16 ∧
          (symColour m r 3).g.toNat = r.colorRed.toNat / 2 ^ 8 % 2 ^ 8 ∧
          (symColour m r 3).b.toNat = r.colorRed.toNat % 2 ^ 8)

/-- 43_dither.md R196: after DGREY every slot of channel 0, and after DCOLOR every slot of all three channels, lies in
`-256 .. 252`. -/
def Obligations.NoSlotLeavesItsRange : Prop :=
  ∀ s t : State, s.status.err = false → t.status.err = false →
    (exec .dgrey s = .next t → ∀ v ∈ t.eng.ch0.cur ++ t.eng.ch0.nxt, -256 ≤ v.toInt ∧ v.toInt ≤ 252) ∧
      (exec .dcolor s = .next t →
        ∀ v ∈ t.eng.ch0.cur ++ t.eng.ch0.nxt ++ t.eng.ch1.cur ++ t.eng.ch1.nxt ++ t.eng.ch2.cur ++ t.eng.ch2.nxt,
          -256 ≤ v.toInt ∧ v.toInt ≤ 252)

/-! ## PACK and COPY1 -/

/-- The modes with their codes, planes and bits per pixel (10_state.md R23, 44_packer.md R220). -/
def modeTable : List (Mode × BitVec 3 × Nat × Nat) :=
  [(.binary, 0, 1, 1), (.bwr, 1, 2, 1), (.bwy, 2, 2, 1), (.bwyr, 3, 1, 2), (.gray4, 4, 2, 1)]

/-- The conditions under which PACK passes its checks in a mode of `np` planes and `bps` bits per pixel (44_packer.md
R223). -/
def PackReady (s : State) (np bps : Nat) : Prop :=
  SourceReady s ∧ Plane0Ready s bps ∧ (np = 2 → Plane1Ready s bps)

/-- The base of plane `p` (44_packer.md R224). -/
def baseOfPlane (r : Regs) (p : Nat) : Nat := if p = 0 then r.dst0Base.toNat else r.dst1Base.toNat

/-- 44_packer.md R220 to R224, R227: PACK completes and publishes the metadata; unpacking plane `p` gives back, for
every pixel, the symbol (2 bits per pixel) or its bit `p`; no byte outside the planes changes. At 4 and 8 bpp, completion over
palette entries not written since reset is the model's choice (log entry 3). -/
def Obligations.PackRoundTrip : Prop :=
  ∀ (s : State) (m : Mode) (code : BitVec 3) (np bps : Nat), (m, code, np, bps) ∈ modeTable → s.regs.mode = code →
    PackReady s np bps →
    ∃ t, exec .pack s = .next t ∧
      (let dp := (s.regs.srcWidth.toNat * bps + 7) / 8
       CompletedWith s t
           { s.regs with
             dstPitch := BitVec.ofNat 17 dp, planeBytes := BitVec.ofNat 32 (dp * s.regs.srcHeight.toNat)
             planes := BitVec.ofNat 2 np }
           false ∧
         LinesKept s t ∧
         (∀ a, (∀ p, p < np → ¬(baseOfPlane s.regs p ≤ a ∧ a < baseOfPlane s.regs p + planeSize s.regs bps)) →
           Mem.read t.mem a = Mem.read s.mem a) ∧
         ∀ p y x, p < np → y < s.regs.srcHeight.toNat → x < s.regs.srcWidth.toNat →
           unpack t.mem (baseOfPlane s.regs p) dp bps x y =
             if bps = 2 then (matchSymbol m s.regs (sample s.regs s.mem x y)).toNat
             else (matchSymbol m s.regs (sample s.regs s.mem x y)).toNat / 2 ^ p % 2)

/-- 44_packer.md R222: the pad bits of every row PACK writes are 0. At 4 and 8 bpp, completion over palette entries not
written since reset is the model's choice (log entry 3). -/
def Obligations.PackPadsRowsWithZeroBits : Prop :=
  ∀ (s : State) (m : Mode) (code : BitVec 3) (np bps : Nat), (m, code, np, bps) ∈ modeTable → s.regs.mode = code →
    PackReady s np bps →
    ∃ t, exec .pack s = .next t ∧
      (let dp := (s.regs.srcWidth.toNat * bps + 7) / 8
       ∀ p y k, p < np → y < s.regs.srcHeight.toNat → s.regs.srcWidth.toNat * bps ≤ k → k < 8 * dp →
         rowBit t.mem (baseOfPlane s.regs p + y * dp) k = false)

/-- 44_packer.md R225: COPY1 completes and publishes the metadata; each byte of plane 0 is the inverse of the source
byte, the pad bits of a row's last byte forced to 0; no byte outside plane 0 changes. -/
def Obligations.CopyInvertsTheSource : Prop :=
  ∀ s : State, s.regs.mode = 0 → s.regs.srcBpp = 1 → SourceReady s → Plane0Ready s 1 →
    ∃ t, exec .copy1 s = .next t ∧
      (let w := s.regs.srcWidth.toNat
       let n := (w + 7) / 8
       CompletedWith s t
           { s.regs with
             dstPitch := BitVec.ofNat 17 n, planeBytes := BitVec.ofNat 32 (n * s.regs.srcHeight.toNat), planes := 1 }
           false ∧
         LinesKept s t ∧ MemoryKeptOutside s t s.regs.dst0Base.toNat (planeSize s.regs 1) ∧
         ∀ y k, y < s.regs.srcHeight.toNat → k < n →
           let v := 255 - (Mem.read s.mem (srcRow s.regs y + k)).toNat
           (Mem.read t.mem (s.regs.dst0Base.toNat + y * n + k)).toNat =
             if k = n - 1 ∧ w % 8 ≠ 0 then v / 2 ^ (8 - w % 8) * 2 ^ (8 - w % 8) else v)

/-- 44_packer.md R226: for a 1-bpp source in BINARY mode with THR_GREY at least 1, COPY1 and PACK leave the same memory
and registers; with THR_GREY 0, PACK writes every pixel bit 1. -/
def Obligations.CopyAndPackAgree : Prop :=
  ∀ s : State, s.regs.mode = 0 → s.regs.srcBpp = 1 → SourceReady s → Plane0Ready s 1 →
    ∃ t u, exec .copy1 s = .next t ∧ exec .pack s = .next u ∧ u.regs = t.regs ∧ u.status = t.status ∧
      (1 ≤ s.regs.thrGrey.toNat → MemoryKept t u) ∧
      (s.regs.thrGrey = 0 → ∀ y x, y < s.regs.srcHeight.toNat → x < s.regs.srcWidth.toNat →
        unpack u.mem s.regs.dst0Base.toNat ((s.regs.srcWidth.toNat + 7) / 8) 1 x y = 1)

/-! ## Geometry -/

/-- 45_geometry.md R251: VFLIP completes; storage row `r` holds what row `H - 1 - r` held, padding included; nothing
else changes. -/
def Obligations.VflipSwapsTheRows : Prop :=
  ∀ s : State, SourceReady s →
    ∃ t, exec .vflip s = .next t ∧ CompletedWith s t s.regs false ∧ LinesKept s t ∧
      (let p := s.regs.srcPitch.toNat
       let base := s.regs.srcBase.toNat
       MemoryKeptOutside s t base (p * s.regs.srcHeight.toNat) ∧
         ∀ r k, r < s.regs.srcHeight.toNat → k < p →
           Mem.read t.mem (base + r * p + k) = Mem.read s.mem (base + (s.regs.srcHeight.toNat - 1 - r) * p + k))

/-- 45_geometry.md R252 to R255: MIRROR completes; in every storage row, pixel `x` holds the bits pixel `W - 1 - x`
held, in their order, and the row's padding bits stay; at 1 bpp with a width that is no multiple of 8 nothing but
GEOM_SKIP changes. -/
def Obligations.MirrorReversesThePixels : Prop :=
  ∀ s : State, SourceReady s →
    ∃ t, exec .mirror s = .next t ∧ LinesKept s t ∧
      (let w := s.regs.srcWidth.toNat
       let b := s.regs.srcBpp.toNat
       let skip : Bool := decide (b = 1 ∧ w % 8 ≠ 0)
       CompletedWith s t s.regs skip ∧ (skip = true → t.mem = s.mem) ∧
         MemoryKeptOutside s t s.regs.srcBase.toNat (s.regs.srcPitch.toNat * s.regs.srcHeight.toNat) ∧
         ∀ r, r < s.regs.srcHeight.toNat →
           let row := s.regs.srcBase.toNat + r * s.regs.srcPitch.toNat
           (skip = false → ∀ x j, x < w → j < b →
               rowBit t.mem row (x * b + j) = rowBit s.mem row ((w - 1 - x) * b + j)) ∧
             ∀ i, w * b ≤ i → i < 8 * s.regs.srcPitch.toNat → rowBit t.mem row i = rowBit s.mem row i)

/-- 45_geometry.md R256: ROT180 completes; storage row `r` holds row `H - 1 - r` with its pixels mirrored and its
padding as it was; where the mirror half is skipped the rows are only flipped and GEOM_SKIP is set. -/
def Obligations.RotateHalfTurnFlipsAndMirrors : Prop :=
  ∀ s : State, SourceReady s →
    ∃ t, exec .rot180 s = .next t ∧ LinesKept s t ∧
      (let w := s.regs.srcWidth.toNat
       let b := s.regs.srcBpp.toNat
       let p := s.regs.srcPitch.toNat
       let skip : Bool := decide (b = 1 ∧ w % 8 ≠ 0)
       CompletedWith s t s.regs skip ∧
         MemoryKeptOutside s t s.regs.srcBase.toNat (p * s.regs.srcHeight.toNat) ∧
         ∀ r, r < s.regs.srcHeight.toNat →
           let row := s.regs.srcBase.toNat + r * p
           let old := s.regs.srcBase.toNat + (s.regs.srcHeight.toNat - 1 - r) * p
           (skip = true → ∀ i, i < 8 * p → rowBit t.mem row i = rowBit s.mem old i) ∧
             (skip = false → ∀ x j, x < w → j < b →
               rowBit t.mem row (x * b + j) = rowBit s.mem old ((w - 1 - x) * b + j)) ∧
             ∀ i, w * b ≤ i → i < 8 * p → rowBit t.mem row i = rowBit s.mem old i)

/-- 45_geometry.md R257, R258: a 4-bpp ROT90 completes and exchanges the source registers; new pixel `(x, y)` is old
pixel `(y, H - 1 - x)`, every padding nibble of the new buffer is 0, and no byte outside the scratch buffer changes. -/
def Obligations.RotateQuarterTurnClockwise : Prop :=
  ∀ s : State, SourceReady s → ScratchReady s →
    ∃ t, exec .rot90 s = .next t ∧ CompletedWith s t (rotatedRegs s.regs) false ∧ LinesKept s t ∧
      (let np := leastPitch s.regs.srcHeight.toNat 4
       MemoryKeptOutside s t s.regs.scratchBase.toNat (np * s.regs.srcWidth.toNat) ∧
         ∀ y x, y < s.regs.srcWidth.toNat → x < 2 * np →
           rowNibble t.mem (srcRow (rotatedRegs s.regs) y) x =
             if x < s.regs.srcHeight.toNat then
               rowNibble s.mem (srcRow s.regs (s.regs.srcHeight.toNat - 1 - x)) y
             else 0)

/-- 45_geometry.md R258, R259: a 4-bpp ROT270 completes and exchanges the source registers; new pixel `(x, y)` is old
pixel `(W - 1 - y, x)`, every padding nibble of the new buffer is 0, and no byte outside the scratch buffer changes. -/
def Obligations.RotateQuarterTurnCounterClockwise : Prop :=
  ∀ s : State, SourceReady s → ScratchReady s →
    ∃ t, exec .rot270 s = .next t ∧ CompletedWith s t (rotatedRegs s.regs) false ∧ LinesKept s t ∧
      (let np := leastPitch s.regs.srcHeight.toNat 4
       MemoryKeptOutside s t s.regs.scratchBase.toNat (np * s.regs.srcWidth.toNat) ∧
         ∀ y x, y < s.regs.srcWidth.toNat → x < 2 * np →
           rowNibble t.mem (srcRow (rotatedRegs s.regs) y) x =
             if x < s.regs.srcHeight.toNat then
               rowNibble s.mem (srcRow s.regs x) (s.regs.srcWidth.toNat - 1 - y)
             else 0)

/-- 45_geometry.md R260: ROT90 and ROT270 at a depth other than 4 bpp set GEOM_SKIP and complete; memory and every
register but STATUS stay. -/
def Obligations.RotationsAtOtherDepthsAreSkipped : Prop :=
  ∀ (s : State) (i : Instr), i = .rot90 ∨ i = .rot270 → SourceReady s → s.regs.srcBpp ≠ 4 →
    ∃ t, exec i s = .next t ∧ CompletedWith s t s.regs true ∧ t.mem = s.mem ∧ LinesKept s t

/-- 45_geometry.md R261: INVERT completes; every byte of the source buffer, padding included, is inverted; nothing else
changes. -/
def Obligations.InvertNegatesEveryByte : Prop :=
  ∀ s : State, SourceReady s →
    ∃ t, exec .invert s = .next t ∧ CompletedWith s t s.regs false ∧ LinesKept s t ∧
      (let base := s.regs.srcBase.toNat
       let size := s.regs.srcPitch.toNat * s.regs.srcHeight.toNat
       MemoryKeptOutside s t base size ∧
         ∀ k, k < size → (Mem.read t.mem (base + k)).toNat = 255 - (Mem.read s.mem (base + k)).toNat)

/-- 45_geometry.md R262: VFLIP twice, MIRROR twice and INVERT twice each leave memory bit for bit as it was. -/
def Obligations.TransformsUndoThemselves : Prop :=
  ∀ (s : State) (i : Instr), i = .vflip ∨ i = .mirror ∨ i = .invert → SourceReady s →
    ∃ t u, exec i s = .next t ∧ exec i t = .next u ∧ MemoryKept s u ∧ (Mem.wf s.mem → u.mem = s.mem)

/-- 45_geometry.md R262: four ROT90 commands on a 4-bpp image give back every pixel and the bases, width and height;
the pitch becomes the minimum and every padding nibble of the rows 0. -/
def Obligations.FourQuarterTurnsRestoreTheImage : Prop :=
  ∀ s : State, SourceReady s → ScratchReady s →
    ∃ t1 t2 t3 t4, exec .rot90 s = .next t1 ∧ exec .rot90 t1 = .next t2 ∧ exec .rot90 t2 = .next t3 ∧
      exec .rot90 t3 = .next t4 ∧
      t4.regs = { s.regs with srcPitch := BitVec.ofNat 32 (leastPitch s.regs.srcWidth.toNat 4) } ∧
      ∀ y x, y < s.regs.srcHeight.toNat → x < 2 * leastPitch s.regs.srcWidth.toNat 4 →
        rowNibble t4.mem (srcRow t4.regs y) x =
          if x < s.regs.srcWidth.toNat then rowNibble s.mem (srcRow s.regs y) x else 0

/-! ## The host's side -/

/-- 60_exceptions.md R315, R316: the interrupt is IRQ_EN and DONE; it rises when a command completes while IRQ_EN is 1,
and falls when IRQ_EN is written 0, when DONE is cleared, and when a command is accepted. -/
def Obligations.InterruptFollowsDone : Prop :=
  (∀ (i : Instr) (s t : State), exec i s = .next t → irq t = s.regs.irqEn) ∧
    (∀ s : State, s.inReset = false → s.status.busy = false →
      (∀ v : Word, ∃ t, step (s.queue (.regWrite 0x004 .word v)) = .next t ∧
        irq t = (decide (v.toNat / 2 ^ 4 % 2 = 1) && s.status.done)) ∧
      (∀ v : Word, v.toNat / 2 % 2 = 1 →
        ∃ t, step (s.queue (.regWrite 0x008 .word v)) = .next t ∧ irq t = false) ∧
      (∀ w : Word, s.status.err = false →
        ∃ t, step (s.queue (.regWrite 0x00C .word w)) = .next t ∧ irq t = false))

/-- 20_memory.md R75: a command whose regions the host touched still ends as it would, and no register but SAMPLE's
RESULT and no byte outside its write regions is affected. When a race is noted and settled, and the write regions in a
reserved mode, are the model's (log entries 8 and 9). -/
def Obligations.ARaceStaysInTheWriteRegions : Prop :=
  ∀ (s t : State) (i : Instr), s.status.busy = true → decode s.cmdWord = .ok i → s.raced = true → exec i s = .next t →
    ∃ u, step (s.queue .engineTurn) = .next u ∧ u.status = t.status ∧ u.raced = false ∧
      u.regs = { t.regs with result := u.regs.result } ∧
      ((∀ x y, i ≠ .sample x y) → u.regs.result = t.regs.result) ∧
      ((∃ n, CheckFails s i n) → u.regs.result = t.regs.result) ∧
      (∀ x y, i = .sample x y → (∀ n, ¬CheckFails s i n) → u.regs.result.toNat < 2 ^ 24) ∧
      ∀ a, (∀ g ∈ writeIntervals s.regs i, ¬(g.1 ≤ a ∧ a < g.1 + g.2)) → Mem.read u.mem a = Mem.read t.mem a

/-- 20_memory.md R60: while the engine is idle the host reads back what it last wrote to a byte below `MEM_SIZE`, and
every other byte as before; an address at or past `MEM_SIZE` does not exist, and an access to it faults, which is the
model's deduction (log entry 13), as `readData` is its field (log entry 14). -/
def Obligations.HostMemoryIsPlainRam : Prop :=
  ∀ (s : State) (a : Word) (v : Byte),
    (s.params.memSize ≤ a.toNat →
        step (s.queue (.memWrite a v)) = .fault (.noSuchAddress a) ∧
          step (s.queue (.memRead a)) = .fault (.noSuchAddress a)) ∧
      (a.toNat < s.params.memSize → s.status.busy = false →
        ∃ t, step (s.queue (.memWrite a v)) = .next t ∧ t = { s with mem := t.mem } ∧
          step (t.queue (.memRead a)) = .next { t with readData := v.setWidth 32 } ∧
          ∀ b, b ≠ a.toNat → Mem.read t.mem b = Mem.read s.mem b)

/-- 20_memory.md R68: a host register access that is narrower than a word or misaligned is refused. -/
def Obligations.BadPortAccessesAreRefused : Prop :=
  ∀ (s : State) (o : BitVec 11) (w : AccessWidth) (v : Word), w ≠ .word ∨ o.toNat % 4 ≠ 0 →
    step (s.queue (.regWrite o w v)) = .refused (.badPortAccess o w) ∧
      step (s.queue (.regRead o w)) = .refused (.badPortAccess o w)

/-- What a host write of `v` to each RW register of 10_state.md R20 but PAL[i] makes of the registers: each field takes
the bits R23 and R31 to R41 give it. -/
def registerWrites (r : Regs) (v : Word) : List (BitVec 11 × Regs) :=
  [(0x004,
      { r with
        mode := BitVec.ofNat 3 v.toNat, topdown := decide (v.toNat / 2 ^ 3 % 2 = 1)
        irqEn := decide (v.toNat / 2 ^ 4 % 2 = 1) }),
    (0x040, { r with srcBase := v }), (0x044, { r with srcWidth := BitVec.ofNat 16 v.toNat }),
    (0x048, { r with srcHeight := BitVec.ofNat 16 v.toNat }), (0x04C, { r with srcBpp := BitVec.ofNat 6 v.toNat }),
    (0x050, { r with srcPitch := v }), (0x054, { r with dst0Base := v }), (0x058, { r with dst1Base := v }),
    (0x05C, { r with scratchBase := v }), (0x080, { r with thrGrey := BitVec.ofNat 8 v.toNat }),
    (0x084, { r with thr3Luma := BitVec.ofNat 8 v.toNat, thr3Chan := BitVec.ofNat 8 (v.toNat / 2 ^ 8) }),
    (0x088, { r with thr4Luma := BitVec.ofNat 8 v.toNat, thr4Chan := BitVec.ofNat 8 (v.toNat / 2 ^ 8) }),
    (0x08C,
      { r with
        marginY := BitVec.ofNat 8 v.toNat, marginRB := BitVec.ofNat 8 (v.toNat / 2 ^ 8)
        marginRG := BitVec.ofNat 8 (v.toNat / 2 ^ 16) }),
    (0x090, { r with colorRed := BitVec.ofNat 24 v.toNat }), (0x094, { r with colorYel := BitVec.ofNat 24 v.toNat })]

/-- 10_state.md R20, R23, R31 to R41: while the engine is idle a host write sets the fields of the register at its
offset from their bits of the word, or the palette entry at its offset, and nothing else. -/
def Obligations.RegisterWriteSetsItsFields : Prop :=
  ∀ (s : State) (v : Word), s.inReset = false → s.status.busy = false →
    (∀ e ∈ registerWrites s.regs v, step (s.queue (.regWrite e.1 .word v)) = .next { s with regs := e.2 }) ∧
      ∀ i : Fin 256,
        step (s.queue (.regWrite (BitVec.ofNat 11 (0x400 + 4 * i.val)) .word v)) =
          .next { s with regs := { s.regs with pal := s.regs.pal.set i (BitVec.ofNat 24 v.toNat) } }

/-- The number each register of 10_state.md R20 but PAL[i] reads as: its fields at their bits, by R22 to R39 and R41. -/
def registerReads (s : State) : List (BitVec 11 × Nat) :=
  [(0x000, 0x45504451),
    (0x004, s.regs.mode.toNat + s.regs.topdown.toNat * 2 ^ 3 + s.regs.irqEn.toNat * 2 ^ 4),
    (0x008,
      s.status.busy.toNat + s.status.done.toNat * 2 ^ 1 + s.status.err.toNat * 2 ^ 2 + s.status.overrun.toNat * 2 ^ 3
        + s.status.geomSkip.toNat * 2 ^ 4 + s.status.errCode.toNat * 2 ^ 8),
    (0x00C, 0), (0x010, s.regs.errCmd.toNat), (0x014, s.regs.result.toNat), (0x018, s.regs.dstPitch.toNat),
    (0x01C, s.regs.planeBytes.toNat), (0x020, s.regs.planes.toNat), (0x040, s.regs.srcBase.toNat),
    (0x044, s.regs.srcWidth.toNat), (0x048, s.regs.srcHeight.toNat), (0x04C, s.regs.srcBpp.toNat),
    (0x050, s.regs.srcPitch.toNat), (0x054, s.regs.dst0Base.toNat), (0x058, s.regs.dst1Base.toNat),
    (0x05C, s.regs.scratchBase.toNat), (0x080, s.regs.thrGrey.toNat),
    (0x084, s.regs.thr3Luma.toNat + s.regs.thr3Chan.toNat * 2 ^ 8),
    (0x088, s.regs.thr4Luma.toNat + s.regs.thr4Chan.toNat * 2 ^ 8),
    (0x08C, s.regs.marginY.toNat + s.regs.marginRB.toNat * 2 ^ 8 + s.regs.marginRG.toNat * 2 ^ 16),
    (0x090, s.regs.colorRed.toNat), (0x094, s.regs.colorYel.toNat)]

/-- 10_state.md R22 to R41: in every state out of reset, running or idle, a host read of a register answers with its
fields at their bits, the reserved bits 0, and changes nothing; `readData`, where the answer stands, is the model's own
field (log entry 14). -/
def Obligations.RegisterReadsShowTheirFields : Prop :=
  ∀ s : State, s.inReset = false →
    (∀ e ∈ registerReads s,
        ∃ v, step (s.queue (.regRead e.1 .word)) = .next { s with readData := v } ∧ v.toNat = e.2) ∧
      ∀ i : Fin 256, ∃ v,
        step (s.queue (.regRead (BitVec.ofNat 11 (0x400 + 4 * i.val)) .word)) = .next { s with readData := v } ∧
          v.toNat = s.regs.pal[i].toNat
end

