-- ==== Sys2Proof/Laws/Loop.lean ====
section
/-! SUPPORT. The rules of the loop: what an induction over `for i in 0 .. n-1` gives, once. -/

namespace Sys2Proof.Machine

variable {α β : Type}

@[simp] theorem forUpto_zero (body : Nat → α → α) (x : α) : forUpto 0 body x = x := rfl

@[simp] theorem forUpto_succ (n : Nat) (body : Nat → α → α) (x : α) :
    forUpto (n + 1) body x = body n (forUpto n body x) := rfl

/-- A predicate indexed by how many rounds have run holds at the end, if each round carries it one further. -/
theorem forUpto_induction {n : Nat} {body : Nat → α → α} {x : α} (P : Nat → α → Prop) (h0 : P 0 x)
    (hs : ∀ i y, i < n → P i y → P (i + 1) (body i y)) : P n (forUpto n body x) := by
  induction n with
  | zero => exact h0
  | succ n ih => exact hs n _ (Nat.lt_succ_self n) (ih fun i y hi => hs i y (Nat.lt_succ_of_lt hi))

/-- A predicate every round keeps holds at the end. -/
theorem forUpto_invariant {n : Nat} {body : Nat → α → α} {x : α} (P : α → Prop) (h0 : P x)
    (hs : ∀ i y, i < n → P y → P (body i y)) : P (forUpto n body x) :=
  forUpto_induction (fun _ => P) h0 hs

/-- Rounds that agree give loops that agree. -/
theorem forUpto_congr {n : Nat} {f g : Nat → α → α} (h : ∀ i y, i < n → f i y = g i y) (x : α) :
    forUpto n f x = forUpto n g x := by
  induction n with
  | zero => rfl
  | succ n ih => simp [ih fun i y hi => h i y (Nat.lt_succ_of_lt hi), h n _ (Nat.lt_succ_self n)]

/-- Two loops whose rounds keep a relation end in it. -/
theorem forUpto_rel {n : Nat} {f : Nat → α → α} {g : Nat → β → β} {x : α} {y : β} (R : α → β → Prop) (h0 : R x y)
    (hs : ∀ i a b, i < n → R a b → R (f i a) (g i b)) : R (forUpto n f x) (forUpto n g y) := by
  induction n with
  | zero => exact h0
  | succ n ih => exact hs n _ _ (Nat.lt_succ_self n) (ih fun i a b hi => hs i a b (Nat.lt_succ_of_lt hi))

end Sys2Proof.Machine
end

