-- ==== Sys2Proof/Laws/Memory.lean ====
section
/-! SUPPORT. The laws of memory: a read after a write, and that every memory operation keeps the canonical form and
the bound `MEM_SIZE`. -/

namespace Sys2Proof.Machine

variable {m n : Mem} {a b : Nat} {v : Byte} {c : Host.Cell}

@[simp] theorem Mem.read_nil (a : Nat) : Mem.read [] a = Mem.fill := rfl

@[simp] theorem Mem.read_cons (c : Host.Cell) (m : Mem) (a : Nat) :
    Mem.read (c :: m) a = if c.1 = a then c.2 else Mem.read m a := rfl

theorem Mem.read_erase_same (m : Mem) (a : Nat) : Mem.read (Mem.erase m a) a = Mem.fill := by
  induction m with
  | nil => rfl
  | cons c m ih => by_cases h : c.1 = a <;> simp_all [Mem.erase]

theorem Mem.read_erase_ne (m : Mem) (h : b ≠ a) : Mem.read (Mem.erase m a) b = Mem.read m b := by
  induction m with
  | nil => rfl
  | cons c m ih =>
    by_cases hc : c.1 = a
    · have hb : c.1 ≠ b := fun e => h (e ▸ hc)
      simp_all [Mem.erase]
    · by_cases hb : c.1 = b <;> simp_all [Mem.erase]

theorem Mem.mem_insert : ∀ {m : Mem} {d : Host.Cell}, d ∈ Mem.insert c m ↔ d = c ∨ d ∈ m
  | [], d => by simp [Mem.insert]
  | e :: m, d => by
    unfold Mem.insert
    split
    · simp
    · simp [Mem.mem_insert (m := m)]; tauto

theorem Mem.read_insert (h : ∀ d ∈ m, d.1 ≠ c.1) (b : Nat) :
    Mem.read (Mem.insert c m) b = if c.1 = b then c.2 else Mem.read m b := by
  induction m with
  | nil => rfl
  | cons d m ih =>
    have hd : d.1 ≠ c.1 := h d (by simp)
    have ih := ih fun e he => h e (by simp [he])
    unfold Mem.insert
    split
    · simp
    · by_cases hb : d.1 = b
      · have : c.1 ≠ b := fun e => hd (hb.trans e.symm)
        simp [hb, this]
      · simp [hb, ih]

theorem Mem.not_mem_erase : ∀ d ∈ Mem.erase m a, d.1 ≠ a := by
  intro d hd; simp [Mem.erase] at hd; exact hd.2

/-- A read after a write at the same address gives the value written. -/
@[simp] theorem Mem.read_write_same (m : Mem) (a : Nat) (v : Byte) : Mem.read (Mem.write m a v) a = v := by
  unfold Mem.write
  split
  · rename_i h; rw [Mem.read_erase_same, h]
  · rw [Mem.read_insert Mem.not_mem_erase]; simp

/-- A write leaves every other address alone. -/
theorem Mem.read_write_ne (m : Mem) (v : Byte) (h : b ≠ a) : Mem.read (Mem.write m a v) b = Mem.read m b := by
  unfold Mem.write
  split
  · exact Mem.read_erase_ne m h
  · rw [Mem.read_insert Mem.not_mem_erase]
    simp [Ne.symm h, Mem.read_erase_ne m h]

/-- Everything a read can see of a write. -/
theorem Mem.read_write (m : Mem) (a b : Nat) (v : Byte) :
    Mem.read (Mem.write m a v) b = if b = a then v else Mem.read m b := by
  split
  · rename_i h; rw [h, Mem.read_write_same]
  · rename_i h; exact Mem.read_write_ne m v h

/-! ## The canonical form -/

theorem Mem.wf_nil : Mem.wf [] := by simp [Mem.wf]

theorem Mem.wf_erase (h : Mem.wf m) (a : Nat) : Mem.wf (Mem.erase m a) := by
  refine ⟨h.1.filter _, fun c hc => h.2 c ?_⟩
  simp [Mem.erase] at hc; exact hc.1

theorem Mem.pairwise_insert (h : m.Pairwise fun c d => c.1 < d.1) (hc : ∀ d ∈ m, d.1 ≠ c.1) :
    (Mem.insert c m).Pairwise fun c d => c.1 < d.1 := by
  induction m with
  | nil => simp [Mem.insert]
  | cons d m ih =>
    have hd : d.1 ≠ c.1 := hc d (by simp)
    rw [List.pairwise_cons] at h
    unfold Mem.insert
    split
    · rename_i hlt
      refine List.pairwise_cons.mpr ⟨fun e he => ?_, List.pairwise_cons.mpr h⟩
      rcases List.mem_cons.mp he with rfl | he
      · exact hlt
      · exact Nat.lt_trans hlt (h.1 e he)
    · refine List.pairwise_cons.mpr ⟨fun e he => ?_, ih h.2 fun e he => hc e (by simp [he])⟩
      rcases Mem.mem_insert.mp he with rfl | he
      · omega
      · exact h.1 e he

/-- A write keeps the canonical form. -/
theorem Mem.wf_write (h : Mem.wf m) (a : Nat) (v : Byte) : Mem.wf (Mem.write m a v) := by
  have he := Mem.wf_erase h a
  unfold Mem.write
  split
  · exact he
  · rename_i hv
    refine ⟨Mem.pairwise_insert he.1 Mem.not_mem_erase, fun c hc => ?_⟩
    rcases Mem.mem_insert.mp hc with rfl | hc
    · exact hv
    · exact he.2 c hc

theorem Mem.within_nil (n : Nat) : Mem.within [] n := by simp [Mem.within]

/-- A write below the bound keeps the bound. -/
theorem Mem.within_write {n : Nat} (h : Mem.within m n) (ha : a < n) (v : Byte) : Mem.within (Mem.write m a v) n := by
  have he : Mem.within (Mem.erase m a) n := fun c hc => h c (by simp [Mem.erase] at hc; exact hc.1)
  unfold Mem.write
  split
  · exact he
  · intro c hc
    rcases Mem.mem_insert.mp hc with rfl | hc
    · exact ha
    · exact he c hc

/-- An address a canonical memory lists reads as its byte there. -/
theorem Mem.read_of_mem (h : Mem.wf m) (hc : c ∈ m) : Mem.read m c.1 = c.2 := by
  induction m with
  | nil => simp at hc
  | cons d m ih =>
    have hp := List.pairwise_cons.mp h.1
    rcases List.mem_cons.mp hc with rfl | hc'
    · simp
    · have := hp.1 c hc'
      rw [Mem.read_cons, if_neg (by omega)]
      exact ih ⟨hp.2, fun e he => h.2 e (by simp [he])⟩ hc'

/-- A memory lists every address that does not read as an unlisted one. -/
theorem Mem.mem_of_read_ne (h : Mem.read m a ≠ Mem.fill) : ∃ c ∈ m, c.1 = a := by
  induction m with
  | nil => simp at h
  | cons d m ih =>
    by_cases hd : d.1 = a
    · exact ⟨d, by simp, hd⟩
    · rw [Mem.read_cons, if_neg hd] at h
      obtain ⟨c, hc, rfl⟩ := ih h
      exact ⟨c, by simp [hc], rfl⟩

/-- Canonical memories that read the same are the same list. -/
theorem Mem.eq_of_read (hm : Mem.wf m) (hn : Mem.wf n) (h : ∀ a, Mem.read m a = Mem.read n a) : m = n := by
  have key : ∀ {m n : Mem}, Mem.wf m → Mem.wf n → (∀ a, Mem.read m a = Mem.read n a) → ∀ c ∈ m, c ∈ n := by
    intro m n hm hn h c hc
    have hr := Mem.read_of_mem hm hc
    obtain ⟨d, hd, hdc⟩ := Mem.mem_of_read_ne (m := n) (a := c.1) (by rw [← h, hr]; exact hm.2 c hc)
    have : d = c := Prod.ext hdc (by rw [← Mem.read_of_mem hn hd, hdc, ← h, hr])
    exact this ▸ hd
  refine List.Perm.eq_of_pairwise (fun a b _ _ h1 h2 => by omega) hm.1 hn.1 ?_
  have nd : ∀ {m : Mem}, Mem.wf m → m.Nodup := fun h => h.1.imp fun hlt e => by subst e; omega
  exact (List.perm_ext_iff_of_nodup (nd hm) (nd hn)).mpr fun c =>
    ⟨key hm hn h c, key hn hm (fun a => (h a).symm) c⟩

end Sys2Proof.Machine
end

