-- ==== Sys2Proof/Laws/State.lean ====
section
/-! SUPPORT. One lemma per field per update of the state, each true by rfl, so that no later proof unfolds a record
update. -/

namespace Sys2Proof.Machine

open Sys2Proof.Config (Params)

variable (s : State) (w : Work)

/-! ## raiseError -/

@[simp] theorem raiseError_params (e : ErrCode) : (raiseError e s).params = s.params := rfl
@[simp] theorem raiseError_regs (e : ErrCode) : (raiseError e s).regs = { s.regs with errCmd := s.cmdWord } := rfl
@[simp] theorem raiseError_status (e : ErrCode) :
    (raiseError e s).status =
      { s.status with
        err := true
        errCode := e.code
        busy := false
        done := true } := rfl
@[simp] theorem raiseError_cmdWord (e : ErrCode) : (raiseError e s).cmdWord = s.cmdWord := rfl
@[simp] theorem raiseError_mem (e : ErrCode) : (raiseError e s).mem = s.mem := rfl
@[simp] theorem raiseError_eng (e : ErrCode) : (raiseError e s).eng = s.eng := rfl
@[simp] theorem raiseError_inReset (e : ErrCode) : (raiseError e s).inReset = s.inReset := rfl
@[simp] theorem raiseError_raced (e : ErrCode) : (raiseError e s).raced = s.raced := rfl
@[simp] theorem raiseError_inputs (e : ErrCode) : (raiseError e s).inputs = s.inputs := rfl
@[simp] theorem raiseError_readData (e : ErrCode) : (raiseError e s).readData = s.readData := rfl
@[simp] theorem raiseError_fresh (e : ErrCode) : (raiseError e s).fresh = s.fresh := rfl

/-! ## acknowledge -/

@[simp] theorem acknowledge_params (v : Word) : (acknowledge v s).params = s.params := rfl
@[simp] theorem acknowledge_regs (v : Word) : (acknowledge v s).regs = s.regs := rfl
@[simp] theorem acknowledge_status (v : Word) :
    (acknowledge v s).status =
      { s.status with
        done := s.status.done && !v.getLsbD 1
        err := s.status.err && !v.getLsbD 2
        errCode := if v.getLsbD 2 then 0 else s.status.errCode
        overrun := s.status.overrun && !v.getLsbD 3
        geomSkip := s.status.geomSkip && !v.getLsbD 4 } := rfl
@[simp] theorem acknowledge_cmdWord (v : Word) : (acknowledge v s).cmdWord = s.cmdWord := rfl
@[simp] theorem acknowledge_mem (v : Word) : (acknowledge v s).mem = s.mem := rfl
@[simp] theorem acknowledge_eng (v : Word) : (acknowledge v s).eng = s.eng := rfl
@[simp] theorem acknowledge_inReset (v : Word) : (acknowledge v s).inReset = s.inReset := rfl
@[simp] theorem acknowledge_raced (v : Word) : (acknowledge v s).raced = s.raced := rfl
@[simp] theorem acknowledge_inputs (v : Word) : (acknowledge v s).inputs = s.inputs := rfl
@[simp] theorem acknowledge_readData (v : Word) : (acknowledge v s).readData = s.readData := rfl
@[simp] theorem acknowledge_fresh (v : Word) : (acknowledge v s).fresh = s.fresh := rfl

/-! ## complete -/

@[simp] theorem complete_params : (complete s).params = s.params := rfl
@[simp] theorem complete_regs : (complete s).regs = s.regs := rfl
@[simp] theorem complete_status : (complete s).status = { s.status with busy := false, done := true } := rfl
@[simp] theorem complete_cmdWord : (complete s).cmdWord = s.cmdWord := rfl
@[simp] theorem complete_mem : (complete s).mem = s.mem := rfl
@[simp] theorem complete_eng : (complete s).eng = s.eng.endCommand := rfl
@[simp] theorem complete_inReset : (complete s).inReset = s.inReset := rfl
@[simp] theorem complete_raced : (complete s).raced = s.raced := rfl
@[simp] theorem complete_inputs : (complete s).inputs = s.inputs := rfl
@[simp] theorem complete_readData : (complete s).readData = s.readData := rfl
@[simp] theorem complete_fresh : (complete s).fresh = s.fresh := rfl

/-! ## accept -/

@[simp] theorem accept_params (w : Word) : (accept w s).params = s.params := rfl
@[simp] theorem accept_regs (w : Word) : (accept w s).regs = s.regs := rfl
@[simp] theorem accept_status (w : Word) : (accept w s).status = { s.status with busy := true, done := false } := rfl
@[simp] theorem accept_cmdWord (w : Word) : (accept w s).cmdWord = w := rfl
@[simp] theorem accept_mem (w : Word) : (accept w s).mem = s.mem := rfl
@[simp] theorem accept_eng (w : Word) : (accept w s).eng = s.eng := rfl
@[simp] theorem accept_inReset (w : Word) : (accept w s).inReset = s.inReset := rfl
@[simp] theorem accept_raced (w : Word) : (accept w s).raced = false := rfl
@[simp] theorem accept_inputs (w : Word) : (accept w s).inputs = s.inputs := rfl
@[simp] theorem accept_readData (w : Word) : (accept w s).readData = s.readData := rfl
@[simp] theorem accept_fresh (w : Word) : (accept w s).fresh = s.fresh := rfl

/-! ## setOverrun -/

@[simp] theorem setOverrun_params : (setOverrun s).params = s.params := rfl
@[simp] theorem setOverrun_regs : (setOverrun s).regs = s.regs := rfl
@[simp] theorem setOverrun_status : (setOverrun s).status = { s.status with overrun := true } := rfl
@[simp] theorem setOverrun_cmdWord : (setOverrun s).cmdWord = s.cmdWord := rfl
@[simp] theorem setOverrun_mem : (setOverrun s).mem = s.mem := rfl
@[simp] theorem setOverrun_eng : (setOverrun s).eng = s.eng := rfl
@[simp] theorem setOverrun_inReset : (setOverrun s).inReset = s.inReset := rfl
@[simp] theorem setOverrun_raced : (setOverrun s).raced = s.raced := rfl
@[simp] theorem setOverrun_inputs : (setOverrun s).inputs = s.inputs := rfl
@[simp] theorem setOverrun_readData : (setOverrun s).readData = s.readData := rfl
@[simp] theorem setOverrun_fresh : (setOverrun s).fresh = s.fresh := rfl

/-! ## setGeomSkip -/

@[simp] theorem setGeomSkip_params : (setGeomSkip s).params = s.params := rfl
@[simp] theorem setGeomSkip_regs : (setGeomSkip s).regs = s.regs := rfl
@[simp] theorem setGeomSkip_status : (setGeomSkip s).status = { s.status with geomSkip := true } := rfl
@[simp] theorem setGeomSkip_cmdWord : (setGeomSkip s).cmdWord = s.cmdWord := rfl
@[simp] theorem setGeomSkip_mem : (setGeomSkip s).mem = s.mem := rfl
@[simp] theorem setGeomSkip_eng : (setGeomSkip s).eng = s.eng := rfl
@[simp] theorem setGeomSkip_inReset : (setGeomSkip s).inReset = s.inReset := rfl
@[simp] theorem setGeomSkip_raced : (setGeomSkip s).raced = s.raced := rfl
@[simp] theorem setGeomSkip_inputs : (setGeomSkip s).inputs = s.inputs := rfl
@[simp] theorem setGeomSkip_readData : (setGeomSkip s).readData = s.readData := rfl
@[simp] theorem setGeomSkip_fresh : (setGeomSkip s).fresh = s.fresh := rfl

/-! ## setResult -/

@[simp] theorem setResult_params (v : Word) : (setResult v s).params = s.params := rfl
@[simp] theorem setResult_regs (v : Word) : (setResult v s).regs = { s.regs with result := v } := rfl
@[simp] theorem setResult_status (v : Word) : (setResult v s).status = s.status := rfl
@[simp] theorem setResult_cmdWord (v : Word) : (setResult v s).cmdWord = s.cmdWord := rfl
@[simp] theorem setResult_mem (v : Word) : (setResult v s).mem = s.mem := rfl
@[simp] theorem setResult_eng (v : Word) : (setResult v s).eng = s.eng := rfl
@[simp] theorem setResult_inReset (v : Word) : (setResult v s).inReset = s.inReset := rfl
@[simp] theorem setResult_raced (v : Word) : (setResult v s).raced = s.raced := rfl
@[simp] theorem setResult_inputs (v : Word) : (setResult v s).inputs = s.inputs := rfl
@[simp] theorem setResult_readData (v : Word) : (setResult v s).readData = s.readData := rfl
@[simp] theorem setResult_fresh (v : Word) : (setResult v s).fresh = s.fresh := rfl

/-! ## publishPlanes -/

@[simp] theorem publishPlanes_params (dp np : Nat) : (publishPlanes dp np s).params = s.params := rfl
@[simp] theorem publishPlanes_regs (dp np : Nat) :
    (publishPlanes dp np s).regs =
      { s.regs with
        dstPitch := BitVec.ofNat 17 dp
        planeBytes := BitVec.ofNat 32 (dp * s.regs.height)
        planes := BitVec.ofNat 2 np } := rfl
@[simp] theorem publishPlanes_status (dp np : Nat) : (publishPlanes dp np s).status = s.status := rfl
@[simp] theorem publishPlanes_cmdWord (dp np : Nat) : (publishPlanes dp np s).cmdWord = s.cmdWord := rfl
@[simp] theorem publishPlanes_mem (dp np : Nat) : (publishPlanes dp np s).mem = s.mem := rfl
@[simp] theorem publishPlanes_eng (dp np : Nat) : (publishPlanes dp np s).eng = s.eng := rfl
@[simp] theorem publishPlanes_inReset (dp np : Nat) : (publishPlanes dp np s).inReset = s.inReset := rfl
@[simp] theorem publishPlanes_raced (dp np : Nat) : (publishPlanes dp np s).raced = s.raced := rfl
@[simp] theorem publishPlanes_inputs (dp np : Nat) : (publishPlanes dp np s).inputs = s.inputs := rfl
@[simp] theorem publishPlanes_readData (dp np : Nat) : (publishPlanes dp np s).readData = s.readData := rfl
@[simp] theorem publishPlanes_fresh (dp np : Nat) : (publishPlanes dp np s).fresh = s.fresh := rfl

/-! ## exchangeSource -/

@[simp] theorem exchangeSource_params : (exchangeSource s).params = s.params := rfl
@[simp] theorem exchangeSource_regs :
    (exchangeSource s).regs =
      { s.regs with
        srcBase := s.regs.scratchBase
        scratchBase := s.regs.srcBase
        srcWidth := s.regs.srcHeight
        srcHeight := s.regs.srcWidth
        srcPitch := BitVec.ofNat 32 (rotatedPitch s.regs) } := rfl
@[simp] theorem exchangeSource_status : (exchangeSource s).status = s.status := rfl
@[simp] theorem exchangeSource_cmdWord : (exchangeSource s).cmdWord = s.cmdWord := rfl
@[simp] theorem exchangeSource_mem : (exchangeSource s).mem = s.mem := rfl
@[simp] theorem exchangeSource_eng : (exchangeSource s).eng = s.eng := rfl
@[simp] theorem exchangeSource_inReset : (exchangeSource s).inReset = s.inReset := rfl
@[simp] theorem exchangeSource_raced : (exchangeSource s).raced = s.raced := rfl
@[simp] theorem exchangeSource_inputs : (exchangeSource s).inputs = s.inputs := rfl
@[simp] theorem exchangeSource_readData : (exchangeSource s).readData = s.readData := rfl
@[simp] theorem exchangeSource_fresh : (exchangeSource s).fresh = s.fresh := rfl

/-! ## State.runWork -/

@[simp] theorem runWork_params (body : Params → Regs → Work → Work) :
    (s.runWork body).params = s.params := rfl
@[simp] theorem runWork_regs (body : Params → Regs → Work → Work) :
    (s.runWork body).regs = s.regs := rfl
@[simp] theorem runWork_status (body : Params → Regs → Work → Work) :
    (s.runWork body).status = s.status := rfl
@[simp] theorem runWork_cmdWord (body : Params → Regs → Work → Work) :
    (s.runWork body).cmdWord = s.cmdWord := rfl
@[simp] theorem runWork_mem (body : Params → Regs → Work → Work) :
    (s.runWork body).mem = (body s.params s.regs s.work).mem := rfl
@[simp] theorem runWork_eng (body : Params → Regs → Work → Work) :
    (s.runWork body).eng = (body s.params s.regs s.work).eng := rfl
@[simp] theorem runWork_inReset (body : Params → Regs → Work → Work) :
    (s.runWork body).inReset = s.inReset := rfl
@[simp] theorem runWork_raced (body : Params → Regs → Work → Work) :
    (s.runWork body).raced = s.raced := rfl
@[simp] theorem runWork_inputs (body : Params → Regs → Work → Work) :
    (s.runWork body).inputs = s.inputs := rfl
@[simp] theorem runWork_readData (body : Params → Regs → Work → Work) :
    (s.runWork body).readData = s.readData := rfl
@[simp] theorem runWork_fresh (body : Params → Regs → Work → Work) :
    (s.runWork body).fresh = s.fresh := rfl

/-! ## noteRace -/

@[simp] theorem noteRace_params (b : Bool) : (noteRace b s).params = s.params := rfl
@[simp] theorem noteRace_regs (b : Bool) : (noteRace b s).regs = s.regs := rfl
@[simp] theorem noteRace_status (b : Bool) : (noteRace b s).status = s.status := rfl
@[simp] theorem noteRace_cmdWord (b : Bool) : (noteRace b s).cmdWord = s.cmdWord := rfl
@[simp] theorem noteRace_mem (b : Bool) : (noteRace b s).mem = s.mem := rfl
@[simp] theorem noteRace_eng (b : Bool) : (noteRace b s).eng = s.eng := rfl
@[simp] theorem noteRace_inReset (b : Bool) : (noteRace b s).inReset = s.inReset := rfl
@[simp] theorem noteRace_raced (b : Bool) : (noteRace b s).raced = (s.raced || b) := rfl
@[simp] theorem noteRace_inputs (b : Bool) : (noteRace b s).inputs = s.inputs := rfl
@[simp] theorem noteRace_readData (b : Bool) : (noteRace b s).readData = s.readData := rfl
@[simp] theorem noteRace_fresh (b : Bool) : (noteRace b s).fresh = s.fresh := rfl

/-! ## scrambleByte -/

@[simp] theorem scrambleByte_params (a : Nat) : (scrambleByte a s).params = s.params := rfl
@[simp] theorem scrambleByte_regs (a : Nat) : (scrambleByte a s).regs = s.regs := rfl
@[simp] theorem scrambleByte_status (a : Nat) : (scrambleByte a s).status = s.status := rfl
@[simp] theorem scrambleByte_cmdWord (a : Nat) : (scrambleByte a s).cmdWord = s.cmdWord := rfl
@[simp] theorem scrambleByte_mem (a : Nat) :
    (scrambleByte a s).mem =
      Mem.write s.mem a (Config.freeByte s.fresh) := rfl
@[simp] theorem scrambleByte_eng (a : Nat) : (scrambleByte a s).eng = s.eng := rfl
@[simp] theorem scrambleByte_inReset (a : Nat) : (scrambleByte a s).inReset = s.inReset := rfl
@[simp] theorem scrambleByte_raced (a : Nat) : (scrambleByte a s).raced = s.raced := rfl
@[simp] theorem scrambleByte_inputs (a : Nat) : (scrambleByte a s).inputs = s.inputs := rfl
@[simp] theorem scrambleByte_readData (a : Nat) : (scrambleByte a s).readData = s.readData := rfl
@[simp] theorem scrambleByte_fresh (a : Nat) : (scrambleByte a s).fresh = s.fresh + 1 := rfl

/-! ## releaseReset -/

@[simp] theorem releaseReset_params : (releaseReset s).params = s.params := rfl
@[simp] theorem releaseReset_regs : (releaseReset s).regs = s.regs := rfl
@[simp] theorem releaseReset_status : (releaseReset s).status = s.status := rfl
@[simp] theorem releaseReset_cmdWord : (releaseReset s).cmdWord = s.cmdWord := rfl
@[simp] theorem releaseReset_mem : (releaseReset s).mem = s.mem := rfl
@[simp] theorem releaseReset_eng : (releaseReset s).eng = s.eng := rfl
@[simp] theorem releaseReset_inReset : (releaseReset s).inReset = false := rfl
@[simp] theorem releaseReset_raced : (releaseReset s).raced = s.raced := rfl
@[simp] theorem releaseReset_inputs : (releaseReset s).inputs = s.inputs := rfl
@[simp] theorem releaseReset_readData : (releaseReset s).readData = s.readData := rfl
@[simp] theorem releaseReset_fresh : (releaseReset s).fresh = s.fresh := rfl

/-! ## The state's work -/

@[simp] theorem work_mem : s.work.mem = s.mem := rfl
@[simp] theorem work_eng : s.work.eng = s.eng := rfl

/-! ## Updates of the work -/

@[simp] theorem work_write_mem (a : Nat) (v : Byte) : (w.write a v).mem = Mem.write w.mem a v := rfl
@[simp] theorem work_write_eng (a : Nat) (v : Byte) : (w.write a v).eng = w.eng := rfl
@[simp] theorem work_atPlane_mem (i : Nat) : (w.atPlane i).mem = w.mem := rfl
@[simp] theorem work_atPlane_eng (i : Nat) :
    (w.atPlane i).eng = { w.eng with cursor := { w.eng.cursor with plane := i } } := rfl
@[simp] theorem work_atRow_mem (i : Nat) : (w.atRow i).mem = w.mem := rfl
@[simp] theorem work_atRow_eng (i : Nat) :
    (w.atRow i).eng = { w.eng with cursor := { w.eng.cursor with row := i } } := rfl
@[simp] theorem work_atCol_mem (i : Nat) : (w.atCol i).mem = w.mem := rfl
@[simp] theorem work_atCol_eng (i : Nat) :
    (w.atCol i).eng = { w.eng with cursor := { w.eng.cursor with col := i } } := rfl
@[simp] theorem work_atSwap_mem (i : Nat) : (w.atSwap i).mem = w.mem := rfl
@[simp] theorem work_atSwap_eng (i : Nat) :
    (w.atSwap i).eng = { w.eng with cursor := { w.eng.cursor with swap := i } } := rfl
@[simp] theorem packStart_mem (base dp y : Nat) : (packStart base dp y w).mem = w.mem := rfl
@[simp] theorem packStart_eng (base dp y : Nat) :
    (packStart base dp y w).eng = { w.eng with acc := 0, nb := 0, addr := base + y * dp } := rfl
@[simp] theorem packFlush_mem (v : Byte) (n : Nat) : (packFlush v n w).mem = Mem.write w.mem w.eng.addr v := rfl
@[simp] theorem packFlush_eng (v : Byte) (n : Nat) :
    (packFlush v n w).eng = { w.eng with acc := 0, nb := 0, addr := w.eng.addr + n } := rfl
@[simp] theorem onChan_mem (c : Chan) (f : Channel → Channel) : (onChan c f w).mem = w.mem := rfl
@[simp] theorem onChan_eng (c : Chan) (f : Channel → Channel) :
    (onChan c f w).eng = w.eng.setChan c (f (w.eng.chan c)) := rfl
@[simp] theorem work_read_eq (a : Nat) : w.read a = Mem.read w.mem a := rfl

/-! ## The line buffers of one channel -/

@[simp] theorem chan_setChan_same (g : Engine) (c : Chan) (ch : Channel) : (g.setChan c ch).chan c = ch := by
  cases c <;> rfl

@[simp] theorem chan_setChan_ne (g : Engine) (c d : Chan) (ch : Channel) (h : d ≠ c) :
    (g.setChan c ch).chan d = g.chan d := by
  cases c <;> cases d <;> first | rfl | exact absurd rfl h

@[simp] theorem setChan_acc (g : Engine) (c : Chan) (ch : Channel) : (g.setChan c ch).acc = g.acc := by
  cases c <;> rfl
@[simp] theorem setChan_nb (g : Engine) (c : Chan) (ch : Channel) : (g.setChan c ch).nb = g.nb := by
  cases c <;> rfl
@[simp] theorem setChan_addr (g : Engine) (c : Chan) (ch : Channel) : (g.setChan c ch).addr = g.addr := by
  cases c <;> rfl
@[simp] theorem setChan_cursor (g : Engine) (c : Chan) (ch : Channel) : (g.setChan c ch).cursor = g.cursor := by
  cases c <;> rfl

@[simp] theorem endCommand_ch0 (g : Engine) : g.endCommand.ch0 = g.ch0 := rfl
@[simp] theorem endCommand_ch1 (g : Engine) : g.endCommand.ch1 = g.ch1 := rfl
@[simp] theorem endCommand_ch2 (g : Engine) : g.endCommand.ch2 = g.ch2 := rfl
@[simp] theorem endCommand_acc (g : Engine) : g.endCommand.acc = 0 := rfl
@[simp] theorem endCommand_nb (g : Engine) : g.endCommand.nb = 0 := rfl
@[simp] theorem endCommand_addr (g : Engine) : g.endCommand.addr = 0 := rfl
@[simp] theorem endCommand_cursor (g : Engine) : g.endCommand.cursor = Cursor.idle := rfl

end Sys2Proof.Machine
end

