-- ==== Sys2Proof/Laws/Writes.lean ====
section
/-! SUPPORT. What memory the shared operations write: `Mem.Via P m n` says that `n` comes from `m` by byte writes at
addresses of `P` alone, and each operation and each body has one lemma that says where it writes. -/

namespace Sys2Proof.Machine

open Sys2Proof.Config (Params)

/-- `n` comes from `m` by writes at addresses of `P`. -/
inductive Mem.Via (P : Nat → Prop) (m : Mem) : Mem → Prop where
  | refl : Mem.Via P m m
  | write {n : Mem} (h : Mem.Via P m n) {a : Nat} (ha : P a) (v : Byte) : Mem.Via P m (Mem.write n a v)

namespace Mem.Via

variable {P Q : Nat → Prop} {m n k : Mem}

theorem one {a : Nat} (ha : P a) (v : Byte) : Mem.Via P m (Mem.write m a v) := .write .refl ha v

theorem trans (h : Mem.Via P m n) (h' : Mem.Via P n k) : Mem.Via P m k := by
  induction h' with
  | refl => exact h
  | write _ ha v ih => exact .write ih ha v

theorem mono (h : Mem.Via P m n) (hpq : ∀ a, P a → Q a) : Mem.Via Q m n := by
  induction h with
  | refl => exact .refl
  | write _ ha v ih => exact .write ih (hpq _ ha) v

/-- Every byte outside `P` reads as before. -/
theorem read_outside (h : Mem.Via P m n) {a : Nat} (ha : ¬P a) : Mem.read n a = Mem.read m a := by
  induction h with
  | refl => rfl
  | write _ hb v ih => rw [Mem.read_write_ne _ _ (by rintro rfl; exact ha hb), ih]

/-- Writes keep the canonical form. -/
theorem wf (h : Mem.Via P m n) (hm : Mem.wf m) : Mem.wf n := by
  induction h with
  | refl => exact hm
  | write _ _ v ih => exact Mem.wf_write ih _ v

/-- Writes below the bound keep the bound. -/
theorem within {b : Nat} (h : Mem.Via P m n) (hP : ∀ a, P a → a < b) (hm : Mem.within m b) : Mem.within n b := by
  induction h with
  | refl => exact hm
  | write _ ha v ih => exact Mem.within_write ih (hP _ ha) v

end Mem.Via

/-! ## Loops -/

section loops

variable {P : Nat → Prop} {n : Nat} {body : Nat → Work → Work} {w : Work}

theorem forUpto_via (h : ∀ i u, i < n → Mem.Via P u.mem (body i u).mem) : Mem.Via P w.mem (forUpto n body w).mem :=
  forUpto_invariant (fun u => Mem.Via P w.mem u.mem) .refl fun i u hi hu => hu.trans (h i u hi)

theorem forPlanes_via (h : ∀ i u, i < n → Mem.Via P u.mem (body i u).mem) :
    Mem.Via P w.mem (forPlanes n body w).mem := forUpto_via fun i u hi => h i (u.atPlane i) hi

theorem forRows_via (h : ∀ i u, i < n → Mem.Via P u.mem (body i u).mem) :
    Mem.Via P w.mem (forRows n body w).mem := forUpto_via fun i u hi => h i (u.atRow i) hi

theorem forCols_via (h : ∀ i u, i < n → Mem.Via P u.mem (body i u).mem) :
    Mem.Via P w.mem (forCols n body w).mem := forUpto_via fun i u hi => h i (u.atCol i) hi

theorem forSwaps_via (h : ∀ i u, i < n → Mem.Via P u.mem (body i u).mem) :
    Mem.Via P w.mem (forSwaps n body w).mem := forUpto_via fun i u hi => h i (u.atSwap i) hi

end loops

/-! ## The shared operations -/

section operations

variable {P : Nat → Prop} {w : Work} {a c : Nat}

theorem swapBytes_via (f : Byte → Byte) (ha : P a) (hc : P c) : Mem.Via P w.mem (w.swapBytes f a c).mem :=
  .write (.one ha _) hc _

/-- What an exchange leaves at every address. -/
theorem swapBytes_read (f : Byte → Byte) (w : Work) (a c b : Nat) :
    Mem.read (w.swapBytes f a c).mem b =
      if b = c then f (Mem.read w.mem a) else if b = a then f (Mem.read w.mem c) else Mem.read w.mem b := by
  simp [Work.swapBytes, Mem.read_write]

theorem setNib_via {row x : Nat} (v : BitVec 4) (h : P (row + x / 2)) : Mem.Via P w.mem (setNib w row x v).mem :=
  .one h _

theorem packFlush_via (v : Byte) (n : Nat) (h : P w.eng.addr) : Mem.Via P w.mem (packFlush v n w).mem := .one h _

theorem packPut_via (bits n : Nat) (h : P w.eng.addr) : Mem.Via P w.mem (packPut bits n w).mem := by
  unfold packPut
  simp only
  split
  · exact packFlush_via _ _ h
  · exact .refl

theorem packEnd_via (h : 0 < w.eng.nb → P w.eng.addr) : Mem.Via P w.mem (packEnd w).mem := by
  unfold packEnd
  split
  · rename_i hn; exact packFlush_via _ _ (h hn)
  · exact .refl

theorem writeBgr_via (q : Rgb) (h : ∀ j, j < 3 → P (a + j)) : Mem.Via P w.mem (writeBgr a q w).mem :=
  .write (.write (.one (h 0 (by omega)) _) (h 1 (by omega)) _) (h 2 (by omega)) _

end operations

/-! ## The packer's place in a row -/

/-- Where the packer stands after `k` bits of a row that started at `start`: whole bytes are written, the rest wait in
`ACC`. -/
structure PackerAt (start k : Nat) (w : Work) : Prop where
  addr : w.eng.addr = start + k / 8
  nb : w.eng.nb = k % 8

theorem packStart_at (base dp y : Nat) (w : Work) : PackerAt (base + y * dp) 0 (packStart base dp y w) :=
  ⟨rfl, rfl⟩

/-- `PackPut` moves the packer on by `n` bits. -/
theorem packPut_at {start k n bits : Nat} {w : Work} (h : PackerAt start k w) (hn : k % 8 + n ≤ 8) (h0 : 0 < n) :
    PackerAt start (k + n) (packPut bits n w) := by
  obtain ⟨ha, hb⟩ := h
  unfold packPut
  simp only
  split
  · rename_i h8
    constructor
    · simp only [packFlush_eng, ha]; omega
    · simp only [packFlush_eng]; omega
  · rename_i h8
    constructor
    · simp only [ha]; omega
    · simp only [hb]; omega

end Sys2Proof.Machine
end

