-- ==== Sys2Proof/Laws/Bodies.lean ====
section
/-! SUPPORT. Where the body of each command writes: inside the region 20_memory.md R70 gives it, in two steps: the
addresses of a buffer of rows lie in its interval, and each body writes at such addresses alone. -/

namespace Sys2Proof.Machine

open Sys2Proof.Config (Params)

/-- Byte `k` of row `y` of a buffer of `h` rows of `p` bytes lies in the buffer. -/
theorem row_byte_in {base p h y k : Nat} (hy : y < h) (hk : k < p) :
    base ≤ base + y * p + k ∧ base + y * p + k < base + p * h := by
  have : (y + 1) * p ≤ h * p := Nat.mul_le_mul_right p hy
  rw [Nat.add_mul, Nat.one_mul] at this
  rw [Nat.mul_comm p h]
  omega

/-- The storage row of an image row is a row of the buffer (20_memory.md R66). -/
theorem storageRow_lt {td : Bool} {h y : Nat} (hy : y < h) : storageRow td h y < h := by
  unfold storageRow
  split <;> omega

/-- Flipping the storage order twice gives the row back. -/
theorem storageRow_storageRow {td : Bool} {h y : Nat} (hy : y < h) : storageRow td h (storageRow td h y) = y := by
  unfold storageRow
  split <;> simp_all
  omega

section bodies

variable {P : Nat → Prop} {w : Work}

theorem flipRows_via {base height pitch : Nat} (h : ∀ y k, y < height → k < pitch → P (base + y * pitch + k)) :
    Mem.Via P w.mem (flipRows base height pitch w).mem :=
  forSwaps_via fun _ _ hi => forCols_via fun _ _ hk =>
    swapBytes_via _ (h _ _ (by omega) hk) (h _ _ (by omega) hk)

theorem mirrorRow1_via {nb row : Nat} (h : ∀ k, k < nb → P (row + k)) :
    Mem.Via P w.mem (mirrorRow1 nb row w).mem := by
  unfold mirrorRow1
  have hl : Mem.Via P w.mem
      (forCols (nb / 2) (fun k w => w.swapBytes rev8 (row + k) (row + (nb - 1 - k))) w).mem :=
    forCols_via fun k _ hk => swapBytes_via _ (h _ (by omega)) (h _ (by omega))
  simp only
  split
  · exact .write hl (h _ (by omega)) _
  · exact hl

theorem mirrorRow4_via {width row : Nat} (h : ∀ x, x < width → P (row + x / 2)) :
    Mem.Via P w.mem (mirrorRow4 width row w).mem :=
  forCols_via fun _ _ hx => (setNib_via _ (h _ (by omega))).trans (setNib_via _ (h _ (by omega)))

theorem mirrorRowBytes_via {n width row : Nat} (h : ∀ x j, x < width → j < n → P (row + n * x + j)) :
    Mem.Via P w.mem (mirrorRowBytes n width row w).mem :=
  forCols_via fun _ _ hx => forUpto_via fun _ _ hj => swapBytes_via _ (h _ _ (by omega) hj) (h _ _ (by omega) hj)

theorem invertWork_via (p : Params) {r : Regs} (h : ∀ k, k < r.pitch * r.height → P (r.base + k)) :
    Mem.Via P w.mem (invertWork p r w).mem :=
  forUpto_via fun _ _ hk => .one (h _ hk) _

theorem rot90Work_via (p : Params) {r : Regs}
    (h : ∀ y k, y < r.width → k < rotatedPitch r → P (r.scratchBase.toNat + y * rotatedPitch r + k)) :
    Mem.Via P w.mem (rot90Work p r w).mem :=
  forRows_via fun _ _ hy => forCols_via fun _ _ hk => .one (h _ _ (storageRow_lt hy) hk) _

theorem copyWork_via (p : Params) {r : Regs}
    (h : ∀ y k, y < r.height → k < destPitch r.width 1 → P (r.dst0Base.toNat + y * destPitch r.width 1 + k)) :
    Mem.Via P w.mem (copyWork p r w).mem :=
  forRows_via fun _ _ hy => forCols_via fun _ _ hk => .one (h _ _ hy hk) _

end bodies

/-! ## Rows of the packer -/

/-- A row that starts at `start` and puts `width` pixels of `bps` bits writes the `ceil(width * bps / 8)` bytes from
`start` on, whatever the pixels are (44_packer.md R222). -/
theorem packedRow_via {P : Nat → Prop} {start width bps : Nat} (hb : bps = 1 ∨ bps = 2) {body : Nat → Work → Work}
    (hbody : ∀ x u, ∃ bits v, v.mem = u.mem ∧ v.eng.addr = u.eng.addr ∧ v.eng.nb = u.eng.nb ∧
      body x u = packPut bits bps v)
    (hP : ∀ k, k < ceilDiv (width * bps) 8 → P (start + k)) {w : Work} (hw : PackerAt start 0 w) :
    Mem.Via P w.mem (packEnd (forCols width body w)).mem := by
  have key : Mem.Via P w.mem (forCols width body w).mem ∧ PackerAt start (width * bps) (forCols width body w) := by
    refine forUpto_induction
      (fun x u => Mem.Via P w.mem u.mem ∧ PackerAt start (x * bps) u) ⟨.refl, by simpa using hw⟩ ?_
    rintro x u hx ⟨hv, hat⟩
    obtain ⟨bits, v, hm, ha, hn, he⟩ := hbody x (u.atCol x)
    have hat' : PackerAt start (x * bps) v := ⟨ha.trans hat.addr, hn.trans hat.nb⟩
    have hlt : (x + 1) * bps ≤ width * bps := Nat.mul_le_mul_right _ hx
    rw [he]
    constructor
    · refine hv.trans ?_
      have hp : P v.eng.addr := by
        rw [hat'.addr]
        refine hP _ ?_
        unfold ceilDiv
        rcases hb with rfl | rfl <;> omega
      have := packPut_via (w := v) bits bps hp
      rwa [hm] at this
    · have := packPut_at (bits := bits) hat' (n := bps) (by rcases hb with rfl | rfl <;> omega)
        (by rcases hb with rfl | rfl <;> omega)
      rwa [Nat.add_mul, Nat.one_mul]
  refine key.1.trans (packEnd_via fun hn => ?_)
  rw [key.2.addr]
  rw [key.2.nb] at hn
  refine hP _ ?_
  unfold ceilDiv
  omega

theorem packRow_via {P : Nat → Prop} {m : Mode} {r : Regs} {p y : Nat} {w : Work}
    (h : ∀ k, k < destPitch r.width (planeShape m).2 →
      P (planeBase r p + y * destPitch r.width (planeShape m).2 + k)) :
    Mem.Via P w.mem (packRow m r p y w).mem := by
  unfold packRow
  have := packedRow_via (P := P) (width := r.width) (bps := (planeShape m).2)
    (start := planeBase r p + y * destPitch r.width (planeShape m).2)
    (by cases m <;> decide) (body := packPixel m r p y)
    (fun x u => ⟨_, u, rfl, rfl, rfl, rfl⟩) h
    (packStart_at (planeBase r p) (destPitch r.width (planeShape m).2) y w)
  simpa using this

@[simp] theorem diffuse_mem (c : Chan) (x : Nat) (e : Int) (w : Work) : (diffuse c x e w).mem = w.mem := rfl
@[simp] theorem rowStart_mem (p : Params) (c : Chan) (w : Work) : (rowStart p c w).mem = w.mem := rfl
@[simp] theorem ditherInit_mem (p : Params) (c : Chan) (w : Work) : (ditherInit p c w).mem = w.mem := rfl

theorem dgreyRow_via {P : Nat → Prop} {p : Params} {r : Regs} {y : Nat} {w : Work}
    (h : ∀ k, k < destPitch r.width 1 → P (r.dst0Base.toNat + y * destPitch r.width 1 + k)) :
    Mem.Via P w.mem (dgreyRow p r y w).mem := by
  unfold dgreyRow
  have := packedRow_via (P := P) (width := r.width) (bps := 1)
    (start := r.dst0Base.toNat + y * destPitch r.width 1) (.inl rfl) (body := dgreyPixel r y)
    (fun x u => ⟨_, _, by simp, by simp [diffuse], by simp [diffuse], rfl⟩) h
    (packStart_at r.dst0Base.toNat (destPitch r.width 1) y (rowStart p .c0 w))
  simpa using this

theorem writeBgr_via_of_mem {P : Nat → Prop} {a : Nat} {v w : Work} (hm : v.mem = w.mem) (q : Rgb)
    (h : ∀ j, j < 3 → P (a + j)) : Mem.Via P w.mem (writeBgr a q v).mem := hm ▸ writeBgr_via q h

theorem dcolorRow_via {P : Nat → Prop} {m : Mode} {p : Params} {r : Regs} {y : Nat} {w : Work}
    (h : ∀ x j, x < r.width → j < 3 → P (imageRowAddr r y + bytesPerPixel r * x + j)) :
    Mem.Via P w.mem (dcolorRow m p r y w).mem := by
  have : Mem.Via P (rowStart p .c2 (rowStart p .c1 (rowStart p .c0 w))).mem (dcolorRow m p r y w).mem := by
    refine forCols_via fun x u hx => ?_
    exact writeBgr_via_of_mem rfl _ fun j hj => h x j hx hj
  simpa using this

end Sys2Proof.Machine
end

