-- ==== Sys2Proof/Laws/Commands.lean ====
section
/-! SUPPORT. What the lifecycle of a command can do, said once: the two ways `runCommand` ends, and what a command
that passed its checks may rely on (40_command.md R123 to R127). -/

namespace Sys2Proof.Machine

open Sys2Proof.Config (Params)

/-- A command ends with the error of its first failed check, or runs and completes. -/
theorem runCommand_cases {i : Instr} {f : State → State} {s t : State} (h : runCommand i f s = .next t) :
    (∃ e, validate s.params s.regs i = some e ∧ t = raiseError e s) ∨
      (validate s.params s.regs i = none ∧ t = complete (f s)) := by
  unfold runCommand at h
  split at h
  · rename_i e he; exact .inl ⟨e, he, by cases h; rfl⟩
  · rename_i hn; exact .inr ⟨hn, by cases h; rfl⟩

/-- A failed check ends the command with its error. -/
theorem runCommand_error {i : Instr} {f : State → State} {s : State} {e : ErrCode}
    (h : validate s.params s.regs i = some e) : runCommand i f s = .next (raiseError e s) := by
  simp [runCommand, h]

/-- A command that passes its checks runs and completes. -/
theorem runCommand_pass {i : Instr} {f : State → State} {s : State} (h : validate s.params s.regs i = none) :
    runCommand i f s = .next (complete (f s)) := by
  simp [runCommand, h]

/-- What passing every check means, check by check (40_command.md R123). -/
theorem validate_eq_none {p : Params} {r : Regs} {i : Instr} :
    validate p r i = none ↔
      (needsSource i = true → sourceInvalid r = false ∧ pitchOk r = true) ∧
      configUnsupported r i = false ∧ (usesLineBuffers i = true → r.width ≤ p.maxW) ∧ coordsOutside r i = false ∧
      (∀ g ∈ checkedRegions r i, g.base + g.size ≤ p.memSize) ∧ anyOverlap (separateRegions r i) = false := by
  have hite : ∀ (c : Prop) [Decidable c] (e : ErrCode) (o : Option ErrCode),
      (if c then some e else o) = none ↔ ¬c ∧ o = none := by
    intro c _ e o; by_cases hc : c <;> simp [hc]
  have hmem : ∀ l : List Region, ¬(l.any fun g => !g.inMemory p.memSize) = true ↔
      ∀ g ∈ l, g.base + g.size ≤ p.memSize := by
    intro l; simp [Region.inMemory]
  simp only [validate, hite, hmem]
  cases needsSource i <;> cases usesLineBuffers i <;> simp [and_assoc]

end Sys2Proof.Machine
end

