-- ==== Sys2Proof/Laws/PerInstr.lean ====
section
/-! SUPPORT. One lemma per command for each statement made about every command (LAWS.json). -/

namespace Sys2Proof.Laws

/-- OP and OPERAND are the upper 8 and the lower 24 bits of a word. -/
theorem fields_append (o : BitVec 8) (p : BitVec 24) :
    fieldOp (o ++ p : Word) = o ∧ fieldOperand (o ++ p : Word) = p := by
  constructor <;> apply BitVec.eq_of_getLsbD_eq <;> intro i hi
  · simp only [fieldOp, BitVec.getLsbD_extractLsb', BitVec.getLsbD_append]
    simp [hi]
  · simp only [fieldOperand, BitVec.getLsbD_extractLsb', BitVec.getLsbD_append]
    simp [hi]

end Sys2Proof.Laws

namespace Sys2Proof.Laws.EncodeFields

/-- The OP and OPERAND fields of a command's word are the command's (30_encoding.md R90 to R92). -/
def Statement (i : Instr) : Prop := fieldOp (encode i) = opcode i ∧ fieldOperand (encode i) = operandBits i

theorem nop : Statement .nop := fields_append _ _
theorem sample (x y : Nat) : Statement (.sample x y) := fields_append _ _
theorem matchColour (r g b : Nat) : Statement (.matchColour r g b) := fields_append _ _
theorem dgrey : Statement .dgrey := fields_append _ _
theorem dcolor : Statement .dcolor := fields_append _ _
theorem pack : Statement .pack := fields_append _ _
theorem copy1 : Statement .copy1 := fields_append _ _
theorem vflip : Statement .vflip := fields_append _ _
theorem mirror : Statement .mirror := fields_append _ _
theorem rot90 : Statement .rot90 := fields_append _ _
theorem rot180 : Statement .rot180 := fields_append _ _
theorem rot270 : Statement .rot270 := fields_append _ _
theorem invert : Statement .invert := fields_append _ _

end Sys2Proof.Laws.EncodeFields
end

