-- ==== Sys2Proof/Laws/Steps.lean ====
section
/-! SUPPORT. What a step can be, said once: the host's next action or the engine's turn, what a broken
20_memory.md R75 and a reset write, and that every command is one run of the lifecycle. -/

namespace Sys2Proof.Machine

open Sys2Proof.Config (Params)

/-! ## Whose turn it is -/

/-- With no action pending it is the engine's turn. -/
theorem step_nil {s : State} (h : s.inputs = []) : step s = engineStep s := by simp [step, sequencerStep, h]

/-- The host's next action is taken off the list and done. -/
theorem step_cons {s : State} {e : HostEvent} {rest : List HostEvent} (h : s.inputs = e :: rest) :
    step s = hostStep e { s with inputs := rest } := by simp [step, sequencerStep, h]

/-- A step on a state with a queued action does that action on the state. -/
@[simp] theorem step_queue (s : State) (e : HostEvent) : step (s.queue e) = hostStep e s := rfl

theorem engineStep_idle {s : State} (h : s.status.busy = false) : engineStep s = .next s := by simp [engineStep, h]

theorem engineStep_busy {s : State} (h : s.status.busy = true) : engineStep s = runAccepted s := by simp [engineStep, h]

theorem runAccepted_illegal {s : State} {e : DecodeError} (h : decode s.cmdWord = .error e) :
    runAccepted s = .next (raiseError .illegalCommand { s with raced := false }) := by simp [runAccepted, h]

theorem runAccepted_next {s t : State} {i : Instr} (h : decode s.cmdWord = .ok i) (he : exec i s = .next t) :
    runAccepted s = .next (settleRace i s t) := by simp [runAccepted, h, he]

theorem settleRace_clean {s : State} (h : s.raced = false) (i : Instr) (t : State) : settleRace i s t = t := by
  simp [settleRace, h]

/-! ## Every command is one run of the lifecycle -/

/-- What each command does once it has passed its checks. -/
def effectOf : Instr → State → State
  | .nop => id
  | .sample x y => sampleEffect x y
  | .matchColour r g b => matchEffect r g b
  | .dgrey => dgreyEffect
  | .dcolor => dcolorEffect
  | .pack => packEffect
  | .copy1 => copyEffect
  | .vflip => State.runWork vflipWork
  | .mirror => mirrorEffect
  | .rot90 => rot90Effect
  | .rot180 => rot180Effect
  | .rot270 => rot270Effect
  | .invert => State.runWork invertWork

theorem exec_eq (i : Instr) (s : State) : exec i s = runCommand i (effectOf i) s := by cases i <;> rfl

theorem mirrorEffect_other (s : State) :
    ∃ r m g, mirrorEffect s = { s with status := { s.status with geomSkip := s.status.geomSkip || r }, mem := m, eng := g } := by
  unfold mirrorEffect
  split
  · exact ⟨true, s.mem, s.eng, by simp [setGeomSkip]⟩
  · exact ⟨false, (s.runWork mirrorWork).mem, (s.runWork mirrorWork).eng, by simp [State.runWork]⟩

/-- An effect changes the registers, GEOM_SKIP, memory and the internal state alone. -/
theorem effectOf_other (i : Instr) (s : State) :
    ∃ r k m g, effectOf i s =
      { s with regs := r, status := { s.status with geomSkip := s.status.geomSkip || k }, mem := m, eng := g } := by
  have same : ∃ r k m g, s =
      { s with regs := r, status := { s.status with geomSkip := s.status.geomSkip || k }, mem := m, eng := g } :=
    ⟨s.regs, false, s.mem, s.eng, by simp⟩
  have run : ∀ b, ∃ r k m g, s.runWork b =
      { s with regs := r, status := { s.status with geomSkip := s.status.geomSkip || k }, mem := m, eng := g } :=
    fun b => ⟨s.regs, false, (s.runWork b).mem, (s.runWork b).eng, by simp [State.runWork]⟩
  have pub : ∀ b d n, ∃ r k m g, publishPlanes d n (s.runWork b) =
      { s with regs := r, status := { s.status with geomSkip := s.status.geomSkip || k }, mem := m, eng := g } :=
    fun b d n => ⟨_, false, _, _, by simp [State.runWork, publishPlanes]; exact ⟨rfl, rfl, rfl⟩⟩
  have rot : ∀ b, ∃ r k m g, (if is4bpp s.regs then exchangeSource (s.runWork b) else setGeomSkip s) =
      { s with regs := r, status := { s.status with geomSkip := s.status.geomSkip || k }, mem := m, eng := g } := by
    intro b
    split
    · exact ⟨_, false, _, _, by simp [State.runWork, exchangeSource]; exact ⟨rfl, rfl, rfl⟩⟩
    · exact ⟨s.regs, true, s.mem, s.eng, by simp [setGeomSkip]⟩
  cases i with
  | nop => exact same
  | sample x y => exact ⟨_, false, s.mem, s.eng, by simp [effectOf, sampleEffect, setResult]; rfl⟩
  | matchColour r g b =>
    simp only [effectOf, matchEffect]
    split
    · exact ⟨_, false, s.mem, s.eng, by simp [setResult]; rfl⟩
    · exact same
  | dgrey => exact pub _ _ _
  | dcolor => simp only [effectOf, dcolorEffect]; split; exacts [run _, same]
  | pack => simp only [effectOf, packEffect]; split; exacts [pub _ _ _, same]
  | copy1 => exact pub _ _ _
  | vflip => exact run _
  | mirror => obtain ⟨k, m, g, h⟩ := mirrorEffect_other s; exact ⟨s.regs, k, m, g, h⟩
  | rot90 => exact rot _
  | rot180 =>
    obtain ⟨k, m, g, h⟩ := mirrorEffect_other (s.runWork vflipWork)
    exact ⟨s.regs, k, m, g, h⟩
  | rot270 => exact rot _
  | invert => exact run _

/-! ## Free bytes -/

/-- Some of the regions has the address. -/
abbrev InRegions (gs : List Region) (a : Nat) : Prop := ∃ g ∈ gs, g.Has a

theorem scrambleRegion_other (g : Region) (s : State) :
    ∃ m n, scrambleRegion g s = { s with mem := m, fresh := n } ∧ Mem.Via g.Has s.mem m := by
  refine forUpto_invariant (fun t => ∃ m n, t = { s with mem := m, fresh := n } ∧ Mem.Via g.Has s.mem m)
    ⟨s.mem, s.fresh, rfl, .refl⟩ ?_
  rintro k t hk ⟨m, n, rfl, hv⟩
  exact ⟨_, _, rfl, .write hv ⟨by omega, by omega⟩ _⟩

/-- Free values in regions change memory there, and the count of free values, alone. -/
theorem scramble_other (gs : List Region) (s : State) :
    ∃ m n, scramble gs s = { s with mem := m, fresh := n } ∧ Mem.Via (InRegions gs) s.mem m := by
  induction gs generalizing s with
  | nil => exact ⟨s.mem, s.fresh, rfl, .refl⟩
  | cons g gs ih =>
    obtain ⟨m, n, h, hv⟩ := scrambleRegion_other g s
    obtain ⟨m', n', h', hv'⟩ := ih (scrambleRegion g s)
    refine ⟨m', n', by rw [scramble, h', h], ?_⟩
    rw [h] at hv'
    exact (hv.mono fun a ha => ⟨g, by simp, ha⟩).trans (hv'.mono fun a ⟨k, hk, ha⟩ => ⟨k, by simp [hk], ha⟩)

/-! ## The host -/

/-- A whole aligned register write while reset is low is the port's. -/
theorem hostRegWrite_word {s : State} {o : BitVec 11} (ho : o.toNat % 4 = 0) (hr : s.inReset = false) (v : Word) :
    hostRegWrite o .word v s = .next (writePort (portRegAt o) v s) := by
  simp [hostRegWrite, portAccessOk, ho, hr]

/-- A whole aligned register read while reset is low answers with the port's value and changes nothing else. -/
theorem hostRegRead_word {s : State} {o : BitVec 11} (ho : o.toNat % 4 = 0) (hr : s.inReset = false) :
    hostRegRead o .word s = .next { s with readData := readPort s (portRegAt o) } := by
  simp [hostRegRead, portAccessOk, ho, hr]

/-- Clipping a region to memory keeps its addresses below `MEM_SIZE`, and only those. -/
theorem clip_has {n a : Nat} {g : Region} : (g.clip n).Has a ↔ g.Has a ∧ a < n := by
  simp only [Region.Has, Region.clip]; omega

/-- Free values land in the bytes of the command's write regions that exist. -/
theorem inRegions_commandWrites {s : State} {i : Instr} {a : Nat} :
    InRegions (commandWrites s i) a ↔ InRegions (writeRegions s.regs i) a ∧ a < s.params.memSize := by
  constructor
  · rintro ⟨g, hg, ha⟩
    obtain ⟨k, hk, rfl⟩ := List.mem_map.1 hg
    exact ⟨⟨k, hk, (clip_has.1 ha).1⟩, (clip_has.1 ha).2⟩
  · rintro ⟨⟨g, hg, ha⟩, hn⟩
    exact ⟨_, List.mem_map.2 ⟨g, hg, rfl⟩, clip_has.2 ⟨ha, hn⟩⟩

/-- What a running command writes are its write regions, where they exist. -/
theorem runningWrites_busy {s : State} {i : Instr} (hb : s.status.busy = true) (h : decode s.cmdWord = .ok i) :
    runningWrites s = commandWrites s i := by simp [runningWrites, hb, h]

/-- In BINARY mode, the one mode DGREY and COPY1 run in, a plane has one bit a pixel. -/
theorem bpsOf_binary {r : Regs} (h : modeOf r.mode = some .binary) : bpsOf r = 1 := by
  simp [bpsOf, h, planeShape]

/-- Asserting reset writes free values in the running command's write regions alone. -/
theorem assertReset_mem (s : State) : Mem.Via (InRegions (runningWrites s)) s.mem (assertReset s).mem := by
  obtain ⟨m, n, h, hv⟩ := scramble_other (runningWrites s) s
  simpa [assertReset, h] using hv

end Sys2Proof.Machine
end

