-- ==== Sys2Proof/Laws/Values.lean ====
section
/-! SUPPORT. The values the shared operations compute: the spellings of Sys2Proof.Safety agree with the machine's, a
nibble write and its read, an exchange of many pairs of bytes, and what one `PackPut` and one `Diffuse` leave. -/

namespace Sys2Proof.Machine

open Sys2Proof.Config (Params)

/-! ## Spellings -/

theorem minPitch_eq (w b : Nat) : minPitch w b = leastPitch w b := rfl

theorem destPitch_eq (w bps : Nat) : destPitch w bps = (w * bps + 7) / 8 := rfl

theorem imageRowAddr_eq (r : Regs) (y : Nat) : imageRowAddr r y = srcRow r y := rfl

theorem asr_eq (a : Int) (n : Nat) : asr a n = a / 2 ^ n := rfl

theorem clamp_eq (v : Int) : clamp v 0 255 = clip v := by unfold clamp clip; split <;> [skip; split] <;> omega

theorem rotatedPitch_eq (r : Regs) : rotatedPitch r = leastPitch r.srcHeight.toNat 4 := rfl

/-- The two nibbles of a byte. -/
theorem getNib_eq (m : Mem) (row x : Nat) : (getNib m row x).toNat = rowNibble m row x := by
  have hb := (Mem.read m (row + x / 2)).isLt
  unfold getNib rowNibble
  split
  · simp [Nat.shiftRight_eq_div_pow]; omega
  · simp

/-- A corrected value is a byte. -/
theorem corrected_range (n : Nat) (e : Int) : 0 ≤ corrected n e ∧ corrected n e ≤ 255 := by
  unfold corrected clamp
  split <;> [skip; split] <;> omega

/-! ## Nibbles -/

/-- A nibble write is read back, and leaves every other nibble of the row. -/
theorem getNib_setNib (w : Work) (row x y : Nat) (v : BitVec 4) :
    getNib (setNib w row x v).mem row y = if y = x then v else getNib w.mem row y := by
  have hi : ∀ (a b : BitVec 4), (a ++ b : BitVec 8).extractLsb' 4 4 = a := by decide
  have lo : ∀ (a b : BitVec 4), (a ++ b : BitVec 8).extractLsb' 0 4 = b := by decide
  unfold getNib setNib
  simp only [Work.write, Work.read, Mem.read_write]
  by_cases hd : y / 2 = x / 2
  · simp only [hd, if_true]
    by_cases hx : x % 2 = 0 <;> by_cases hy : y % 2 = 0 <;> simp only [hx, hy, if_true, if_false, hi, lo]
    · have : y = x := by omega
      simp [this]
    · have : y ≠ x := by omega
      simp [this]
    · have : y ≠ x := by omega
      simp [this]
    · have : y = x := by omega
      simp [this]
  · have hne : y ≠ x := by rintro rfl; exact hd rfl
    simp [hd, hne]

/-! ## Exchanges -/

/-- A loop of exchanges of pairwise different bytes: each byte of a pair holds the other's, passed through `f`, and
every other byte stays. -/
theorem swapLoop_read {n : Nat} {f : Byte → Byte} {a c : Nat → Nat} {body : Nat → Work → Work} {w : Work}
    (hbody : ∀ i u, i < n → (body i u).mem = (u.swapBytes f (a i) (c i)).mem)
    (haa : ∀ i j, i < n → j < n → a i = a j → i = j) (hcc : ∀ i j, i < n → j < n → c i = c j → i = j)
    (hac : ∀ i j, i < n → j < n → a i ≠ c j) :
    (∀ i, i < n → Mem.read (forUpto n body w).mem (a i) = f (Mem.read w.mem (c i))) ∧
      (∀ i, i < n → Mem.read (forUpto n body w).mem (c i) = f (Mem.read w.mem (a i))) ∧
      ∀ b, (∀ i, i < n → b ≠ a i ∧ b ≠ c i) → Mem.read (forUpto n body w).mem b = Mem.read w.mem b := by
  induction n with
  | zero => simp
  | succ n ih =>
    obtain ⟨h1, h2, h3⟩ := ih (fun i u hi => hbody i u (by omega)) (fun i j hi hj => haa i j (by omega) (by omega))
      (fun i j hi hj => hcc i j (by omega) (by omega)) (fun i j hi hj => hac i j (by omega) (by omega))
    simp only [forUpto_succ, hbody n _ (Nat.lt_succ_self n), swapBytes_read]
    have ka : ∀ i, i < n → a n ≠ a i ∧ a n ≠ c i := fun i hi =>
      ⟨fun h => by have := haa n i (by omega) (by omega) h; omega, hac n i (by omega) (by omega)⟩
    have kc : ∀ i, i < n → c n ≠ a i ∧ c n ≠ c i := fun i hi =>
      ⟨fun h => hac i n (by omega) (by omega) h.symm, fun h => by have := hcc n i (by omega) (by omega) h; omega⟩
    refine ⟨fun i hi => ?_, fun i hi => ?_, fun b hb => ?_⟩
    · rcases Nat.lt_succ_iff_lt_or_eq.mp hi with hi | rfl
      · rw [if_neg (fun h => (kc i hi).1 h.symm), if_neg (fun h => (ka i hi).1 h.symm), h1 i hi]
      · rw [if_neg (hac i i (by omega) (by omega)), if_pos rfl, h3 _ kc]
    · rcases Nat.lt_succ_iff_lt_or_eq.mp hi with hi | rfl
      · rw [if_neg (fun h => (kc i hi).2 h.symm), if_neg (fun h => (ka i hi).2 h.symm), h2 i hi]
      · rw [if_pos rfl, h3 _ ka]
    · rw [if_neg (hb n (by omega)).2, if_neg (hb n (by omega)).1, h3 b fun i hi => hb i (by omega)]

/-- Bit `i` of a reversed byte is bit `7 - i` (45_geometry.md R253). -/
theorem rev8_getLsbD (v : Byte) {i : Nat} (hi : i < 8) : (rev8 v).getLsbD i = v.getLsbD (7 - i) := by
  have : ∀ v : Byte, ∀ i : Fin 8, (rev8 v).getLsbD i = v.getLsbD (7 - i) := by decide +kernel
  exact this v ⟨i, hi⟩

/-- `Rev8` is its own inverse (45_geometry.md R262). -/
theorem rev8_rev8 : ∀ v : Byte, rev8 (rev8 v) = v := by decide +kernel

/-! ## The packer and the ditherer -/

/-- One `PackPut`: the bits go below those that wait, and a full byte is written (44_packer.md R222). -/
theorem packPut_cases (bits n : Nat) (w : Work) :
    (w.eng.nb + n = 8 ∧
        packPut bits n w = packFlush (w.eng.acc <<< n ||| BitVec.ofNat 8 bits) 1 w) ∨
      (w.eng.nb + n ≠ 8 ∧
        packPut bits n w =
          { w with eng := { w.eng with acc := w.eng.acc <<< n ||| BitVec.ofNat 8 bits, nb := w.eng.nb + n } }) := by
  unfold packPut
  by_cases h : w.eng.nb + n = 8 <;> simp [h]

/-- The slots after one update. -/
theorem addSlot_getD (buf : List Slot) (k j : Nat) (d : Int) :
    (addSlot buf k d).getD j 0 = if j = k ∧ k < buf.length then buf.getD k 0 + BitVec.ofInt 16 d else buf.getD j 0 := by
  simp only [addSlot, List.getD_eq_getElem?_getD, List.getElem?_modify]
  by_cases hj : k = j
  · subst hj
    by_cases hl : k < buf.length
    · simp [hl]
    · simp [hl]
  · have : j ≠ k := fun h => hj h.symm
    simp [hj, this]

@[simp] theorem addSlot_length (buf : List Slot) (k : Nat) (d : Int) : (addSlot buf k d).length = buf.length := by
  simp [addSlot]

/-- `Diffuse` keeps the lengths of the line buffers. -/
theorem diffuseInto_length (x : Nat) (e : Int) (ch : Channel) :
    (diffuseInto x e ch).cur.length = ch.cur.length ∧ (diffuseInto x e ch).nxt.length = ch.nxt.length := by
  simp [diffuseInto]

/-- The line buffers of the other channels stay. -/
theorem onChan_chan (c d : Chan) (f : Channel → Channel) (w : Work) :
    (onChan c f w).eng.chan d = if d = c then f (w.eng.chan c) else w.eng.chan d := by
  cases c <;> cases d <;> simp [onChan, Engine.chan, Engine.setChan]

/-! ## Checks -/

/-- A ready source passes V2, V3 and V7 on region SRC (40_command.md R123). -/
theorem SourceReady.checks {s : State} (h : SourceReady s) :
    sourceInvalid s.regs = false ∧ pitchOk s.regs = true ∧
      (srcRegion s.regs).base + (srcRegion s.regs).size ≤ s.params.memSize := by
  obtain ⟨hw, hh, hd, ha, hp, hm⟩ := h
  refine ⟨?_, ?_, hm⟩
  · have hb : (bppOf s.regs.srcBpp).isNone = false := by
      unfold bppOf
      simp only [List.mem_cons, List.not_mem_nil, or_false] at hd
      rcases hd with hd | hd | hd | hd | hd <;> simp [hd]
    simp [sourceInvalid, Regs.width, Regs.height, hb]
    omega
  · simp [pitchOk, Regs.pitch, Regs.width, minPitch_eq, ha, hp]

end Sys2Proof.Machine
end

