-- ==== Sys2Proof/Tests/Slice0.lean ====
section
/-! SUPPORT. Tests of the model against the words, tables and vectors of spec/ (each names its source), and for each
statement with hypotheses a state and operands that meet them. -/

namespace Sys2Proof.Tests

open Sys2Proof.Machine

/-! ## Helpers -/

/-- Bytes of memory from address `a` on. -/
def bytes (a : Nat) (l : List Nat) : Mem :=
  (l.zipIdx.map fun e => (a + e.2, BitVec.ofNat 8 e.1)).filter fun c => c.2 != Mem.fill

/-- The values of `n` bytes from address `a` on. -/
def dump (m : Mem) (a n : Nat) : List Nat := (List.range n).map fun k => (Mem.read m (a + k)).toNat

/-- The next state of an outcome has the property. -/
def Gives (o : Host.Outcome State Fault Refusal) (p : State → Bool) : Bool :=
  match o with
  | .next t => p t
  | .fault _ => false
  | .refused _ => false

/-- The step stops with this refusal. -/
def RefusedBy (o : Host.Outcome State Fault Refusal) (r : Refusal) : Bool :=
  match o with
  | .refused q => q == r
  | .next _ => false
  | .fault _ => false

theorem gives {o : Host.Outcome State Fault Refusal} {p : State → Bool} (h : Gives o p = true) :
    ∃ t, o = .next t ∧ p t = true := by
  cases o with
  | next t => exact ⟨t, rfl, h⟩
  | fault _ => cases h
  | refused _ => cases h

/-- A top-down machine with 96 bytes of memory, 8 dither columns, the planes at 64 and 80 and the scratch buffer at 48,
whose source at 8 has the given mode, depth, size, pitch and bytes. -/
def picture (mode bpp w h pitch : Nat) (l : List Nat) : State :=
  { State.powerOn { memSize := 96, maxW := 8 } with
    regs :=
      { Regs.reset with
        mode := BitVec.ofNat 3 mode, topdown := true, srcBase := 8, srcWidth := BitVec.ofNat 16 w
        srcHeight := BitVec.ofNat 16 h, srcBpp := BitVec.ofNat 6 bpp, srcPitch := BitVec.ofNat 32 pitch
        dst0Base := 64, dst1Base := 80, scratchBase := 48 }
    mem := bytes 8 l }

/-- The same machine with a bottom-up source. -/
def bottomUp (s : State) : State := { s with regs := { s.regs with topdown := false } }

/-- The same machine with plane 1 at `a`. -/
def withPlane1At (a : Word) (s : State) : State := { s with regs := { s.regs with dst1Base := a } }

/-- The machine with the command of word `w` accepted. -/
def running (s : State) (w : Word) : State := accept w s

/-- A read of the register at `o` returns `v`. -/
def reads (s : State) (o : BitVec 11) (v : Word) : Bool :=
  Gives (step (s.queue (.regRead o .word))) fun t => t.readData == v

theorem completes {o : Host.Outcome State Fault Refusal} (h : Gives o (fun _ => true) = true) : ∃ t, o = .next t := by
  obtain ⟨t, ht, _⟩ := gives h
  exact ⟨t, ht⟩

/-! ## Well-formedness: ill-formed terms are refused (30_encoding.md R97) -/

theorem test_sample_x_4096_is_ill_formed : ¬(Instr.sample 4096 0).WellFormed := by decide
theorem test_sample_y_4096_is_ill_formed : ¬(Instr.sample 0 4096).WellFormed := by decide
theorem test_match_r_256_is_ill_formed : ¬(Instr.matchColour 256 0 0).WellFormed := by decide
theorem test_match_g_256_is_ill_formed : ¬(Instr.matchColour 0 256 0).WellFormed := by decide
theorem test_match_b_256_is_ill_formed : ¬(Instr.matchColour 0 0 256).WellFormed := by decide

/-! ## Decoding: words written out from 30_encoding.md R91 and R92 -/

theorem test_decode_nop : decodeTableWord 32 0x00000000 = some .nop := by decide
theorem test_decode_sample : decodeTableWord 32 0x01ABC123 = some (.sample 0xABC 0x123) := by decide
theorem test_decode_match : decodeTableWord 32 0x02123456 = some (.matchColour 0x12 0x34 0x56) := by decide
theorem test_decode_dgrey : decodeTableWord 32 0x10000000 = some .dgrey := by decide
theorem test_decode_dcolor : decodeTableWord 32 0x11000000 = some .dcolor := by decide
theorem test_decode_pack : decodeTableWord 32 0x20000000 = some .pack := by decide
theorem test_decode_copy1 : decodeTableWord 32 0x21000000 = some .copy1 := by decide
theorem test_decode_vflip : decodeTableWord 32 0x30000000 = some .vflip := by decide
theorem test_decode_mirror : decodeTableWord 32 0x31000000 = some .mirror := by decide
theorem test_decode_rot90 : decodeTableWord 32 0x32000000 = some .rot90 := by decide
theorem test_decode_rot180 : decodeTableWord 32 0x33000000 = some .rot180 := by decide
theorem test_decode_rot270 : decodeTableWord 32 0x34000000 = some .rot270 := by decide
theorem test_decode_invert : decodeTableWord 32 0x35000000 = some .invert := by decide

/-- 95_test_vectors.md 2.1: illegal words, each refused by name. -/
theorem test_decode_refuses_by_name :
    (∀ op ∈ [(0x03 : BitVec 8), 0x0F, 0x12, 0x1F, 0x22, 0x2F, 0x36, 0xFF],
        decode (op ++ (0x123456 : BitVec 24)) = .error (.reservedOp op)) ∧
      decode 0x00000001 = .error (.operandNotZero 0x00 1) ∧ decode 0x20000001 = .error (.operandNotZero 0x20 1) ∧
      decode 0x35800000 = .error (.operandNotZero 0x35 0x800000) := by decide

/-- 95_test_vectors.md 2.1: `SAMPLE 1, 0`, `SAMPLE 4095, 4095` and the three `MATCH` rows. -/
theorem test_encode_operands :
    encode (.sample 1 0) = 0x01001000 ∧ encode (.sample 4095 4095) = 0x01FFFFFF ∧
      encode (.matchColour 255 0 0) = 0x02FF0000 ∧ encode (.matchColour 0 255 0) = 0x0200FF00 ∧
      encode (.matchColour 0 0 255) = 0x020000FF := by decide

/-- opcode_table.json as spec/ gives it: every row of the decoder's table is the row of a command. -/
theorem test_every_row_decodes :
    (opcodeRows.map fun row => (decode row.2).toOption) =
      [some .nop, some (.sample 0 0), some (.matchColour 0 0 0), some .dgrey, some .dcolor, some .pack, some .copy1,
        some .vflip, some .mirror, some .rot90, some .rot180, some .rot270, some .invert] := by decide

/-! ## The step on a placed word -/

/-- 95_test_vectors.md 2.4: BINARY, `(255, 0, 0)` has luma 63 and is black; the word runs as the first step. -/
theorem test_first_step_after_reset :
    Gives (step (State.reset.withFetchWord 32 0x02FF0000)) (fun t => t.regs.result == 0x3F00 && t.status.done) = true := by
  decide

/-- 95_test_vectors.md 2.8: registers at reset, word `0x40000000`: STATUS `0x106`, ERR_CMD the word. -/
theorem test_illegal_word_at_reset :
    Gives (step (State.reset.withFetchWord 32 0x40000000))
      (fun t => t.status.toWord == 0x106 && t.regs.errCmd == 0x40000000) = true := by decide

/-- 95_test_vectors.md 2.2: STATUS `0x206`, then `cmd NOP` is dropped (`0x20E`), then `clr` (`0`). -/
theorem test_error_overrun_and_clear :
    Gives (exec .pack { State.reset with cmdWord := 0x20000000 }) (fun t =>
      t.status.toWord == 0x206 && t.regs.errCmd == 0x20000000 &&
        Gives (step (t.queue (.regWrite 0x00C .word 0))) fun u =>
          u.status.toWord == 0x20E &&
            Gives (step (u.queue (.regWrite 0x008 .word 0x1E))) fun v =>
              v.status.toWord == 0 && v.regs.errCmd == 0x20000000) = true := by decide

/-- 95_test_vectors.md 2.2: BUSY = 1, `wr THR_GREY, 0x80` is ignored and sets OVERRUN. -/
theorem test_write_while_busy :
    Gives (step ((running (picture 0 1 1 1 4 []) 0).queue (.regWrite 0x080 .word 0x80)))
      (fun t => t.regs.thrGrey == 100 && t.status.toWord == 9) = true := by decide

/-- 10_state.md R20, R23: CTRL keeps its five bits and reads them back; ID reads `0x45504451`. -/
theorem test_registers_read_back :
    Gives (step (State.reset.queue (.regWrite 0x004 .word 0xFFFFFFFF))) (fun t => reads t 0x004 0x1F) = true ∧
      reads State.reset 0x000 0x45504451 = true ∧ reads State.reset 0x08C 0x00462020 = true := by decide

/-- 70_reset_and_hazards.md R343: reset takes one free value for each byte of P0, `W = 2` and `H = 3`, of a DGREY that
would end with UNSUPPORTED_CONFIG, and one for each palette entry; an illegal word has no region. -/
theorem test_reset_frees_a_failing_command :
    (assertReset (running (picture 1 8 2 3 4 []) 0x10000000)).fresh = 3 + 256 ∧
      (assertReset (running (picture 1 8 2 3 4 []) 0x03000000)).fresh = 256 := ⟨rfl, rfl⟩

/-! ## Each command on a small image (95_test_vectors.md) -/

/-- 2.2: `run NOP` leaves STATUS `0x2`; GEOM_SKIP is kept (`0x12`). -/
theorem test_nop :
    Gives (exec .nop (running State.reset 0)) (fun t => t.status.toWord == 2) = true ∧
      Gives (exec .nop (running (setGeomSkip State.reset) 0)) (fun t => t.status.toWord == 0x12) = true := by
  decide

/-- 2.3: 24 bpp, row `10 20 30 40 50 60`. -/
theorem test_sample_24bpp :
    Gives (exec (.sample 1 0) (picture 0 24 2 1 8 [0x10, 0x20, 0x30, 0x40, 0x50, 0x60]))
      (fun t => t.regs.result == 0x605040) = true := by decide

/-- 2.3: 1 bpp, row `5A`; and 2.8: a coordinate outside the image, STATUS `0x606`. -/
theorem test_sample_1bpp_and_range :
    ((List.range 8).map fun x => Gives (exec (.sample x 0) (picture 0 1 8 1 4 [0x5A])) fun t => t.regs.result == 0) =
        [false, true, false, true, true, false, true, false] ∧
      Gives (exec (.sample 8 0) (picture 0 1 8 1 4 [0x5A])) (fun t => t.status.toWord == 0x606) = true := by
  decide

/-- 2.4: the strict margins of BWR, `(102, 32, 70)` and `(103, 32, 70)`. -/
theorem test_match_bwr_margin :
    Gives (exec (.matchColour 102 32 70) (picture 1 1 1 1 4 [])) (fun t => t.regs.result == 0x3B01) = true ∧
      Gives (exec (.matchColour 103 32 70) (picture 1 1 1 1 4 [])) (fun t => t.regs.result == 0x3B02) = true := by
  decide

/-- 2.4: BWYR, the regression point `(255, 0, 0)` is black, and `(255, 150, 0)` is red before yellow. -/
theorem test_match_bwyr :
    Gives (exec (.matchColour 255 0 0) (picture 3 1 1 1 4 [])) (fun t => t.regs.result == 0x3F00) = true ∧
      Gives (exec (.matchColour 255 150 0) (picture 3 1 1 1 4 [])) (fun t => t.regs.result == 0x8A03) = true := by
  decide

/-- P5: an 8 x 1 white 32-bpp image dithers to `DB`. -/
theorem test_dgrey_white :
    Gives (exec .dgrey (picture 0 32 8 1 32 (List.replicate 8 [0xFF, 0xFF, 0xFF, 0]).flatten))
      (fun t => dump t.mem 64 1 == [0xDB] && t.regs.planes == 1) = true := by decide

/-- S8: the four terms of a residual of -85 and of -1. -/
theorem test_diffuse_terms :
    (let ch := diffuseInto 0 (-85) (Channel.zero 1)
     (ch.cur.map BitVec.toInt, ch.nxt.map BitVec.toInt) = ([0, 0, -38], [-17, -27, -6])) ∧
      (let ch := diffuseInto 0 (-1) (Channel.zero 1)
       (ch.cur.map BitVec.toInt, ch.nxt.map BitVec.toInt) = ([0, 0, -1], [-1, -1, -1])) := by decide

/-- P4: a 2 x 2 BWR image of `(128, 128, 128)`. -/
theorem test_dcolor_bwr :
    Gives (exec .dcolor (picture 1 24 2 2 8 (List.replicate 2 [128, 128, 128, 128, 128, 128, 0, 0]).flatten))
      (fun t => dump t.mem 8 16 == [255, 255, 255, 0, 0, 0, 0, 0, 255, 255, 255, 0, 0, 0, 0, 0]) = true := by
  decide

/-- 2.6: a BWY 32-bpp image keeps the fourth byte of each pixel. -/
theorem test_dcolor_bwy_32bpp :
    Gives (exec .dcolor (picture 2 32 3 1 12 (List.replicate 3 [0x3C, 0xC8, 0xC8, 0xAA]).flatten))
      (fun t => dump t.mem 8 12 == (List.replicate 3 [0, 0xFF, 0xFF, 0xAA]).flatten) = true := by decide

/-- S4: BWYR, white, yellow, `(255, 60, 0)`, black, white packs to `6C 40`. -/
theorem test_pack_bwyr :
    Gives (exec .pack (picture 3 24 5 1 16 [255, 255, 255, 0, 255, 255, 0, 60, 255, 0, 0, 0, 255, 255, 255]))
      (fun t => dump t.mem 64 2 == [0x6C, 0x40] && t.regs.dstPitch == 2) = true := by decide

/-- S4: GRAY4 of five greys packs to planes `58` and `38`. -/
theorem test_pack_gray4 :
    Gives (exec .pack (picture 4 24 5 1 16 [0, 0, 0, 80, 80, 80, 150, 150, 150, 220, 220, 220, 255, 255, 255]))
      (fun t => dump t.mem 64 1 == [0x58] && dump t.mem 80 1 == [0x38] && t.regs.planes == 2) = true := by
  decide

/-- 2.5: W = 10, storage rows `5A 40 00 00` and `FF C0 12 34`, top-down and bottom-up. -/
theorem test_copy1 :
    Gives (exec .copy1 (picture 0 1 10 2 4 [0x5A, 0x40, 0, 0, 0xFF, 0xC0, 0x12, 0x34]))
        (fun t => dump t.mem 64 4 == [0xA5, 0x80, 0, 0] && t.regs.planeBytes == 4) = true ∧
      Gives (exec .copy1 (bottomUp (picture 0 1 10 2 4 [0x5A, 0x40, 0, 0, 0xFF, 0xC0, 0x12, 0x34])))
        (fun t => dump t.mem 64 4 == [0, 0, 0xA5, 0x80]) = true := by decide

/-- S6: VFLIP moves whole rows, padding included, and leaves the middle row. -/
theorem test_vflip :
    Gives (exec .vflip (picture 0 8 2 3 4 [1, 2, 0, 9, 3, 4, 0, 0, 5, 6, 0, 0]))
      (fun t => dump t.mem 8 12 == [5, 6, 0, 0, 3, 4, 0, 0, 1, 2, 0, 9]) = true := by decide

/-- 2.7: MIRROR at 1 bpp reverses the middle byte in place; at 4 bpp the pad nibble stays. -/
theorem test_mirror :
    Gives (exec .mirror (picture 0 1 24 1 4 [0x01, 0xF0, 0x80, 0])) (fun t => dump t.mem 8 4 == [0x01, 0x0F, 0x80, 0]) =
        true ∧
      Gives (exec .mirror (picture 0 4 3 1 4 [0x12, 0x3F, 0, 0])) (fun t => dump t.mem 8 4 == [0x32, 0x1F, 0, 0]) =
        true := by decide

/-- 2.7: MIRROR at 1 bpp and width 7 is skipped, STATUS `0x12`. -/
theorem test_mirror_skip :
    Gives (exec .mirror (picture 0 1 7 1 4 [0xC0])) (fun t => t.status.toWord == 0x12 && dump t.mem 8 1 == [0xC0]) =
      true := by decide

/-- 2.7: ROT180 at 24 bpp, and at 1 bpp with width 7, where only the flip happens. -/
theorem test_rot180 :
    Gives (exec .rot180 (picture 0 24 2 2 8 [1, 2, 3, 4, 5, 6, 0, 0, 7, 8, 9, 10, 11, 12, 0, 0]))
        (fun t => dump t.mem 8 16 == [10, 11, 12, 7, 8, 9, 0, 0, 4, 5, 6, 1, 2, 3, 0, 0]) = true ∧
      Gives (exec .rot180 (picture 0 1 7 2 4 [0xC0, 0, 0, 0, 2, 0, 0, 0]))
        (fun t => dump t.mem 8 8 == [2, 0, 0, 0, 0xC0, 0, 0, 0] && t.status.toWord == 0x12) = true := by decide

/-- 2.7: ROT90 of `[1,2,3] / [4,5,6]`, top-down; the registers are exchanged and the padding is 0. -/
theorem test_rot90 :
    Gives (exec .rot90 { picture 0 4 3 2 4 [0x12, 0x30, 0, 0, 0x45, 0x60, 0, 0] with
          mem := bytes 8 [0x12, 0x30, 0, 0, 0x45, 0x60, 0, 0] ++ bytes 48 (List.replicate 12 0xEE) })
      (fun t => dump t.mem 48 12 == [0x41, 0, 0, 0, 0x52, 0, 0, 0, 0x63, 0, 0, 0] && t.regs.srcBase == 48 &&
        t.regs.scratchBase == 8 && t.regs.srcWidth == 2 && t.regs.srcHeight == 3 && t.regs.srcPitch == 4) = true := by
  decide

/-- 2.7: ROT270 of the same image, top-down and bottom-up. -/
theorem test_rot270 :
    Gives (exec .rot270 (picture 0 4 3 2 4 [0x12, 0x30, 0, 0, 0x45, 0x60, 0, 0]))
        (fun t => dump t.mem 48 12 == [0x36, 0, 0, 0, 0x25, 0, 0, 0, 0x14, 0, 0, 0]) = true ∧
      Gives (exec .rot270 (bottomUp (picture 0 4 3 2 4 [0x12, 0x30, 0, 0, 0x45, 0x60, 0, 0])))
        (fun t => dump t.mem 48 12 == [0x41, 0, 0, 0, 0x52, 0, 0, 0, 0x63, 0, 0, 0]) = true :=
  by
  decide +kernel

/-- 2.7: INVERT of `C0 00 12 34`, padding included. -/
theorem test_invert :
    Gives (exec .invert (picture 0 1 7 1 4 [0xC0, 0, 0x12, 0x34])) (fun t => dump t.mem 8 4 == [0x3F, 0xFF, 0xED, 0xCB]) =
      true := by decide

/-! ## States and operands that meet the hypotheses of each statement -/

theorem ready {s : State}
    (h : 1 ≤ s.regs.srcWidth.toNat ∧ 1 ≤ s.regs.srcHeight.toNat ∧ s.regs.srcBpp.toNat ∈ [1, 4, 8, 24, 32] ∧
      s.regs.srcPitch.toNat % 4 = 0 ∧ leastPitch s.regs.srcWidth.toNat s.regs.srcBpp.toNat ≤ s.regs.srcPitch.toNat ∧
      s.regs.srcBase.toNat + s.regs.srcPitch.toNat * s.regs.srcHeight.toNat ≤ s.params.memSize) : SourceReady s :=
  ⟨h.1, h.2.1, h.2.2.1, h.2.2.2.1, h.2.2.2.2.1, h.2.2.2.2.2⟩

/-- Two intervals are apart, as a decidable proposition. -/
abbrev ApartB (g h : Nat × Nat) : Prop := ¬(g.1 < h.1 + h.2 ∧ h.1 < g.1 + g.2)

theorem plane0 {s : State} {b : Nat}
    (h : s.regs.dst0Base.toNat + planeSize s.regs b ≤ s.params.memSize ∧
      ApartB (srcInterval s.regs) (s.regs.dst0Base.toNat, planeSize s.regs b)) : Plane0Ready s b := ⟨h.1, h.2⟩

theorem plane1 {s : State} {b : Nat}
    (h : s.regs.dst1Base.toNat + planeSize s.regs b ≤ s.params.memSize ∧
      ApartB (srcInterval s.regs) (s.regs.dst1Base.toNat, planeSize s.regs b) ∧
      ApartB (s.regs.dst0Base.toNat, planeSize s.regs b) (s.regs.dst1Base.toNat, planeSize s.regs b)) :
    Plane1Ready s b := ⟨h.1, h.2.1, h.2.2⟩

theorem scratch {s : State}
    (h : s.regs.srcBpp = 4 ∧ (scrInterval s.regs).1 + (scrInterval s.regs).2 ≤ s.params.memSize ∧
      ApartB (srcInterval s.regs) (scrInterval s.regs)) : ScratchReady s := ⟨h.1, h.2.1, h.2.2⟩

/-- The checks of `CheckFails` as a Boolean, for the witnesses below. -/
def fails (s : State) (i : Instr) : Nat → Bool
  | 2 => needsSource i && (s.regs.srcWidth == 0 || s.regs.srcHeight == 0 ||
      !decide (s.regs.srcBpp.toNat ∈ [1, 4, 8, 24, 32]))
  | 3 => needsSource i && !(decide (s.regs.srcPitch.toNat % 4 = 0) &&
      decide (leastPitch s.regs.srcWidth.toNat s.regs.srcBpp.toNat ≤ s.regs.srcPitch.toNat))
  | 4 =>
    match i with
    | .matchColour _ _ _ | .pack => decide (5 ≤ s.regs.mode.toNat)
    | .dgrey => decide (s.regs.mode ≠ 0)
    | .dcolor => decide ((s.regs.mode ≠ 1 ∧ s.regs.mode ≠ 2 ∧ s.regs.mode ≠ 3) ∨
        (s.regs.srcBpp ≠ 24 ∧ s.regs.srcBpp ≠ 32))
    | .copy1 => decide (s.regs.mode ≠ 0 ∨ s.regs.srcBpp ≠ 1)
    | .nop | .sample _ _ | .vflip | .mirror | .rot90 | .rot180 | .rot270 | .invert => false
  | 5 => (i == .dgrey || i == .dcolor) && decide (s.params.maxW < s.regs.srcWidth.toNat)
  | 6 =>
    match i with
    | .sample x y => decide (s.regs.srcWidth.toNat ≤ x ∨ s.regs.srcHeight.toNat ≤ y)
    | .nop | .matchColour _ _ _ | .dgrey | .dcolor | .pack | .copy1 | .vflip | .mirror | .rot90 | .rot180 | .rot270
    | .invert => false
  | 7 => (checkedIntervals s.regs i).any fun g => decide (s.params.memSize < g.1 + g.2)
  | 8 => !decide ((apartIntervals s.regs i).Pairwise ApartB)
  | _ => false

theorem readsSource_iff (i : Instr) : ReadsSource i ↔ needsSource i = true := by
  cases i <;> simp [ReadsSource, needsSource]

theorem checkFails_iff (s : State) (i : Instr) (n : Nat) : CheckFails s i n ↔ fails s i n = true := by
  match n with
  | 0 | 1 => simp [CheckFails, fails]
  | 2 => simp [CheckFails, fails, readsSource_iff, or_assoc]
  | 3 => simp [CheckFails, fails, readsSource_iff]; intro _; omega
  | 4 => cases i <;> simp [CheckFails, fails, ConfigFails]
  | 5 => simp [CheckFails, fails]
  | 6 => cases i <;> simp [CheckFails, fails]
  | 7 => simp [CheckFails, fails]
  | 8 =>
    have : (fun g h : Nat × Nat => Apart g.1 g.2 h.1 h.2) = ApartB := rfl
    simp [CheckFails, fails, this]
  | _ + 9 => simp [CheckFails, fails]

/-- Check `n` is the first that fails. -/
def FirstFails (s : State) (i : Instr) (n : Nat) : Prop := CheckFails s i n ∧ ∀ k, k < n → ¬CheckFails s i k

theorem firstFails {s : State} {i : Instr} {n : Nat} (h : fails s i n = true ∧ ∀ k, k < n → fails s i k = false) :
    FirstFails s i n :=
  ⟨(checkFails_iff s i n).2 h.1, fun k hk hc => by have := (checkFails_iff s i k).1 hc; rw [h.2 k hk] at this; cases this⟩

theorem noneFails {s : State} {i : Instr} (h : ∀ k, k < 9 → fails s i k = false) : ∀ n, ¬CheckFails s i n := by
  intro n hc
  rw [checkFails_iff] at hc
  by_cases hn : n < 9
  · rw [h n hn] at hc; cases hc
  · match n with
    | m + 9 => cases hc
    | 0 | 1 | 2 | 3 | 4 | 5 | 6 | 7 | 8 => exact hn (by decide)

/-! ### The command word and the step -/

theorem witness_DecodeOfEncodeIsTheCommand :
    (Instr.sample 0 0).WellFormed ∧ (Instr.sample 4095 4095).WellFormed ∧ (Instr.matchColour 0 0 0).WellFormed ∧
      (Instr.matchColour 255 255 255).WellFormed ∧ Instr.rot270.WellFormed := by decide

theorem witness_EncodeOfDecodeIsTheWord :
    decode 0x01FFFFFF = .ok (.sample 4095 4095) ∧ decode 0x02FFFFFF = .ok (.matchColour 255 255 255) ∧
      decode 0x35000000 = .ok .invert := by decide

theorem witness_EveryWordIsOneCommandOrIllegal :
    decode 0x35000000 = .ok .invert ∧ decode 0x35000001 = .error (.operandNotZero 0x35 1) ∧
      decode 0x36000000 = .error (.reservedOp 0x36) := by decide

/-- Words at the edges of the reserved ranges of 30_encoding.md R93, and Z words with a low and a high operand bit. -/
theorem witness_IllegalWordsEndInIllegalCommand :
    (∀ w : Word, (running (picture 0 1 1 1 4 []) w).status.busy = true) ∧
      (∀ op ∈ [0x03, 0x0F, 0x12, 0x1F, 0x22, 0x2F, 0x36, 0xFF],
        op ∉ [0x00, 0x01, 0x02, 0x10, 0x11, 0x20, 0x21, 0x30, 0x31, 0x32, 0x33, 0x34, 0x35]) ∧
      (0x03000000 : Word).toNat / 2 ^ 24 = 0x03 ∧ (0xFFFFFFFF : Word).toNat / 2 ^ 24 = 0xFF ∧
      ((0x00000001 : Word).toNat / 2 ^ 24 = 0x00 ∧ (0x00000001 : Word).toNat % 2 ^ 24 ≠ 0) ∧
      ((0x35800000 : Word).toNat / 2 ^ 24 = 0x35 ∧ (0x35800000 : Word).toNat % 2 ^ 24 ≠ 0) ∧
      (0x01FFFFFF : Word).toNat / 2 ^ 24 = 0x01 ∧ (0x02000000 : Word).toNat / 2 ^ 24 = 0x02 :=
  ⟨fun _ => rfl, by decide, by decide, by decide, by decide, by decide, by decide, by decide⟩

/-- A running command, a running command after a broken R75, and idle engines that kept a legal and an illegal word. -/
theorem witness_StepRunsTheDecodedCommand :
    (let s := running (picture 0 8 2 1 4 [1, 2]) 0x31000000
     decode s.cmdWord = .ok .mirror ∧ s.status.busy = true ∧ s.raced = false ∧ s.inputs = []) ∧
      (let s := { running (picture 0 8 2 1 4 [1, 2]) 0x31000000 with raced := true }
       decode s.cmdWord = .ok .mirror ∧ s.status.busy = true ∧ s.inputs = [] ∧ ∃ t, exec .mirror s = .next t) ∧
      (let s := picture 0 8 2 1 4 [1, 2]
       decode s.cmdWord = .ok .nop ∧ s.status.busy = false ∧ s.inputs = []) ∧
      (let s := raiseError .illegalCommand (running (picture 0 8 2 1 4 [1, 2]) 0x03000000)
       decode s.cmdWord = .error (.reservedOp 3) ∧ s.status.busy = false ∧ s.inputs = []) :=
  ⟨by decide, ⟨by decide, by decide, by decide, completes (by decide)⟩, by decide, by decide⟩

theorem witness_PlacedInstructionRunsNext : (Instr.sample 4095 0).WellFormed := by decide

/-! ### The host and reset -/

theorem witness_OnlyAnAcceptedCmdWriteStartsACommand :
    (let s := picture 0 8 2 1 4 []
     s.inReset = false ∧ s.status.busy = false ∧ s.status.err = false) ∧
      (let s := (picture 0 8 2 1 4 []).queue (.regWrite 0x00C .word 0x30000000)
       ∃ t, step s = .next t ∧ (!s.status.busy && t.status.busy) = true) :=
  ⟨by decide, gives (p := fun t => !false && t.status.busy) (by decide)⟩

theorem witness_CmdWriteWhileBusyOrErrIsDropped :
    (let s := running (picture 0 8 2 1 4 []) 0
     s.inReset = false ∧ (s.status.busy = true ∨ s.status.err = true)) ∧
      (let s := raiseError .overlap (picture 0 8 2 1 4 [])
       s.inReset = false ∧ s.status.busy = false ∧ (s.status.busy = true ∨ s.status.err = true)) := by decide

theorem witness_WritesWhileBusyAreIgnored :
    (let s := running (picture 0 8 2 1 4 []) 0
     s.inReset = false ∧ s.status.busy = true) ∧
      ∀ o ∈ [(0x000 : BitVec 11), 0x004, 0x00C, 0x7FC], o.toNat % 4 = 0 ∧ o ≠ 0x008 := by decide

theorem witness_StatusWriteAcknowledges : (raiseError .badPitch (picture 0 8 2 1 4 [])).inReset = false := by decide

/-- The first and the last reserved offset of each gap of 10_state.md R20, and the ends of the lists. -/
theorem witness_ReservedOffsetsAndBits :
    State.reset.inReset = false ∧ State.reset.status.busy = false ∧
      (∀ o ∈ [(0x024 : BitVec 11), 0x03C, 0x060, 0x07C, 0x098, 0x3FC],
        o.toNat % 4 = 0 ∧ ∀ e ∈ rwRegisters ++ otherRegisters, e.1 ≠ o) ∧
      ((0x004, 0x1F) : BitVec 11 × Word) ∈ rwRegisters ∧ ((0x7FC, 0xFFFFFF) : BitVec 11 × Word) ∈ rwRegisters := by
  have h : [(0x024 : BitVec 11), 0x03C, 0x060, 0x07C, 0x098, 0x3FC].all (fun o => o.toNat % 4 == 0 &&
      (rwRegisters ++ otherRegisters).all fun e => e.1 != o) = true := by decide +kernel
  refine ⟨by decide, by decide, fun o ho => ?_, by decide +kernel, by decide +kernel⟩
  have := List.all_eq_true.mp h o ho
  simp only [Bool.and_eq_true, beq_iff_eq, List.all_eq_true, bne_iff_ne] at this
  exact this

theorem witness_RegisterWriteIsReadBack :
    State.reset.inReset = false ∧ State.reset.status.busy = false ∧
      ((0x004, 0x1F) : BitVec 11 × Word) ∈ rwRegisters ∧ ((0x7FC, 0xFFFFFF) : BitVec 11 × Word) ∈ rwRegisters ∧
      (0x400 : BitVec 11).toNat % 4 = 0 ∧ (0x400 : BitVec 11) ≠ 0x7FC :=
  ⟨by decide, by decide, by decide +kernel, by decide +kernel, by decide, by decide⟩

/-- An idle engine, an illegal word, and a running DGREY with the bytes on both sides of its plane. -/
theorem witness_ResetKeepsMemory :
    (picture 0 8 2 1 4 []).status.busy = false ∧
      decode (running (picture 0 8 2 1 4 []) 0x03000000).cmdWord = .error (.reservedOp 3) ∧
      (let s := running (picture 0 8 2 1 4 []) 0x10000000
       decode s.cmdWord = .ok .dgrey ∧
         ∀ a ∈ [63, 65], ∀ g ∈ writeIntervals s.regs .dgrey, ¬(g.1 ≤ a ∧ a < g.1 + g.2)) := by decide

theorem witness_PlatformResetRestoresRegisters :
    (0x000 : BitVec 11).toNat % 4 = 0 ∧ (0x7FC : BitVec 11).toNat % 4 = 0 := by decide

theorem witness_ReadyAfterReset :
    decode 0x00000000 = .ok .nop ∧ decode 0x02646464 = .ok (.matchColour 100 100 100) ∧
      decode 0x02636363 = .ok (.matchColour 99 99 99) ∧ decode 0x01000000 = .ok (.sample 0 0) ∧
      ReadsSource (.sample 0 0) ∧ decode 0x35000000 = .ok .invert ∧ ReadsSource .invert := by
  simp only [readsSource_iff]; decide

/-- A command that completes, and one that reset abandons. -/
theorem witness_OnlyResetAbandonsACommand :
    (let s := running (picture 0 8 2 1 4 [1, 2]) 0x31000000
     s.status.busy = true ∧ ∃ t, step s = .next t ∧ (!t.status.busy && t.status.done) = true) ∧
      (let s := (running (picture 0 8 2 1 4 [1, 2]) 0x31000000).queue .assertReset
       s.status.busy = true ∧ ∃ t, step s = .next t ∧ t.status.busy = false) :=
  ⟨⟨by decide, gives (p := fun t => !t.status.busy && t.status.done) (by decide)⟩, by decide, _, rfl, rfl⟩

/-! ### Every command -/

/-- One state and command for each code, at the edge of each check (95_test_vectors.md 2.8), and one with no error. -/
theorem witness_FirstFailedCheckNamesTheError :
    FirstFails (picture 0 24 0 1 8 []) .pack 2 ∧ FirstFails (picture 0 24 1 0 8 []) .vflip 2 ∧
      FirstFails (picture 0 16 2 1 8 []) .invert 2 ∧ FirstFails (picture 0 24 2 1 4 []) .pack 3 ∧
      FirstFails (picture 0 24 2 1 10 []) .mirror 3 ∧ FirstFails (picture 5 24 2 1 8 []) .pack 4 ∧
      FirstFails (picture 7 24 2 1 8 []) (.matchColour 0 0 0) 4 ∧ FirstFails (picture 4 24 2 1 8 []) .dgrey 4 ∧
      FirstFails (picture 4 24 2 1 8 []) .dcolor 4 ∧ FirstFails (picture 1 8 2 1 8 []) .dcolor 4 ∧
      FirstFails (picture 1 1 2 1 4 []) .copy1 4 ∧ FirstFails (picture 0 4 2 1 4 []) .copy1 4 ∧
      FirstFails (picture 0 1 9 1 4 []) .dgrey 5 ∧ FirstFails (picture 1 24 9 1 28 []) .dcolor 5 ∧
      FirstFails (picture 0 24 2 1 8 []) (.sample 2 0) 6 ∧ FirstFails (picture 0 24 2 1 8 []) (.sample 0 1) 6 ∧
      FirstFails (picture 0 8 2 23 4 []) .rot90 7 ∧ FirstFails (picture 0 24 2 12 8 []) .pack 7 ∧
      FirstFails (picture 0 4 2 11 4 []) .rot270 8 ∧ FirstFails (picture 0 24 2 8 8 []) .copy1 4 ∧
      FirstFails (picture 0 24 2 8 8 []) .pack 8 ∧ FirstFails (withPlane1At 65 (picture 1 24 1 2 4 [])) .pack 8 ∧
      (∀ n, ¬CheckFails (picture 0 24 2 7 8 []) .pack n) ∧ (∀ n, ¬CheckFails (picture 0 8 2 22 4 []) .rot90 n) := by
  refine ⟨firstFails ?_, firstFails ?_, firstFails ?_, firstFails ?_, firstFails ?_, firstFails ?_, firstFails ?_,
    firstFails ?_, firstFails ?_, firstFails ?_, firstFails ?_, firstFails ?_, firstFails ?_, firstFails ?_,
    firstFails ?_, firstFails ?_, firstFails ?_, firstFails ?_, firstFails ?_, firstFails ?_, firstFails ?_,
    firstFails ?_, noneFails ?_, noneFails ?_⟩ <;> decide

theorem witness_CoordRangeIsSamplesAlone :
    (let s := picture 0 24 2 1 8 []
     (∀ k, k < 6 → ¬CheckFails s (.sample 2 0) k) ∧ s.regs.srcWidth.toNat ≤ 2 ∧
       (∀ k, k < 6 → ¬CheckFails s (.sample 1 1) k) ∧ s.regs.srcHeight.toNat ≤ 1 ∧ s.status.err = false) ∧
      ∃ t, exec (.sample 2 0) (picture 0 24 2 1 8 []) = .next t ∧ (t.status.err && t.status.errCode == 6) = true := by
  refine ⟨⟨?_, by decide, ?_, by decide, by decide⟩, gives (p := fun t => t.status.err && t.status.errCode == 6) (by decide)⟩
  all_goals simp only [checkFails_iff]; decide

/-- An error, a SAMPLE, a PACK, and a rotation that is skipped; the last three fail no check. -/
theorem witness_EngineWritesOnlyItsRegisters :
    (∃ t, exec .pack (picture 5 8 2 1 4 []) = .next t ∧ t.status.err = true) ∧
      (∃ n, CheckFails (picture 5 8 2 1 4 []) .pack n) ∧ (∀ n, ¬CheckFails (picture 0 8 2 1 4 []) (.sample 0 0) n) ∧
      (∀ n, ¬CheckFails (picture 0 8 2 1 4 []) .pack n) ∧ (∀ n, ¬CheckFails (picture 0 8 2 1 4 []) .rot90 n) ∧
      (∃ t, exec (.sample 0 0) (picture 0 8 2 1 4 []) = .next t ∧ (!t.status.err) = true) ∧
      (∃ t, exec .pack (picture 0 8 2 1 4 []) = .next t ∧ (!t.status.err) = true) ∧
      (∃ t, exec .rot90 (picture 0 8 2 1 4 []) = .next t ∧ (!t.status.err) = true) ∧
      (picture 0 8 2 1 4 []).regs.srcBpp ≠ 4 ∧ (picture 5 8 2 1 4 []).status.err = false :=
  ⟨gives (p := fun t => t.status.err) (by decide), ⟨4, (checkFails_iff _ _ _).2 (by decide)⟩, noneFails (by decide),
    noneFails (by decide), noneFails (by decide), gives (p := fun t => !t.status.err) (by decide),
    gives (p := fun t => !t.status.err) (by decide), gives (p := fun t => !t.status.err) (by decide), by decide,
    by decide⟩

/-- A PACK of two planes with the bytes on both sides of each plane, and an error. -/
theorem witness_WritesStayInTheWriteRegions :
    (let s := picture 1 8 2 1 4 []
     (∃ t, exec .pack s = .next t ∧ (!t.status.err) = true) ∧
       ∀ a ∈ [63, 65, 79, 81], ∀ g ∈ writeIntervals s.regs .pack, ¬(g.1 ≤ a ∧ a < g.1 + g.2)) ∧
      (let s := picture 5 8 2 1 4 []
       s.status.err = false ∧ ∃ t, exec .pack s = .next t ∧ t.status.err = true) :=
  ⟨⟨gives (p := fun t => !t.status.err) (by decide), by decide⟩, by decide, gives (p := fun t => t.status.err) (by decide)⟩

/-- Two machines with the same registers and source, whose plane, other memory and line buffers differ. -/
theorem witness_OutcomeDependsOnTheSourceAlone :
    (let s := picture 0 8 2 1 4 [200, 3]
     let s' : State :=
       { s with mem := s.mem ++ bytes 64 [0x55, 1, 2], eng := { s.eng with ch0 := Channel.zero 0, acc := 7, nb := 3 } }
     s'.params = s.params ∧ s'.regs = s.regs ∧ s'.status = s.status ∧ s'.cmdWord = s.cmdWord ∧ ReadsSource .dgrey ∧
       (∀ a, a < 12 → 8 ≤ a → Mem.read s'.mem a = Mem.read s.mem a) ∧ srcInterval s.regs = (8, 4) ∧
       (∃ t, exec .dgrey s = .next t ∧ (!t.status.err) = true) ∧ ∃ t, exec .dgrey s' = .next t) := by
  refine ⟨rfl, rfl, rfl, rfl, (readsSource_iff _).2 rfl, by decide, by decide,
    gives (p := fun t => !t.status.err) (by decide), completes (by decide)⟩

/-! ### The invariant -/

theorem inv_small (e : HostEvent) : Inv ((State.powerOn { memSize := 4, maxW := 1 }).queue e) where
  memWf := by simp [State.queue, State.powerOn, Mem.wf]
  memWithin := by simp [State.queue, State.powerOn, Mem.within]
  params := by simp only [State.queue, State.powerOn]; decide
  lines0 := ⟨rfl, rfl⟩
  lines1 := ⟨rfl, rfl⟩
  lines2 := ⟨rfl, rfl⟩
  nb := by simp [State.queue, State.powerOn, Engine.reset]
  errCode := by simp [State.queue, State.powerOn, Status.reset]
  errCodeLe := by simp [State.queue, State.powerOn, Status.reset]
  busyErr := by simp [State.queue, State.powerOn, Status.reset]
  busyDone := by simp [State.queue, State.powerOn, Status.reset]
  planes := by simp [State.queue, State.powerOn, Regs.reset]
  held := by simp [State.queue, State.powerOn]
  raced := by simp [State.queue, State.powerOn]

theorem witness_EveryStepKeepsTheInvariant :
    Inv ((State.powerOn { memSize := 4, maxW := 1 }).queue (.memWrite 3 9)) ∧
      ∃ t, step ((State.powerOn { memSize := 4, maxW := 1 }).queue (.memWrite 3 9)) = .next t ∧
        (t.mem == [(3, 9)]) = true :=
  ⟨inv_small _, gives (p := fun t => t.mem == [(3, 9)]) (by decide)⟩

theorem witness_ParametersNeverChange :
    ∃ t, step ((State.powerOn { memSize := 4, maxW := 1 }).queue .assertReset) = .next t := ⟨_, rfl⟩

/-! ### SAMPLE and MATCH -/

/-- A source of each depth, at the last pixel. -/
theorem witness_SampleReadsThePixel :
    (∀ e ∈ [(1, 8), (4, 4), (8, 4), (24, 12), (32, 12)], (picture 0 e.1 3 2 e.2 []).regs.srcBpp.toNat = e.1) ∧
      SourceReady (picture 0 1 3 2 8 []) ∧ SourceReady (picture 0 4 3 2 4 []) ∧ SourceReady (picture 0 8 3 2 4 []) ∧
      SourceReady (picture 0 24 3 2 12 []) ∧ SourceReady (picture 0 32 3 2 12 []) ∧
      2 < (picture 0 32 3 2 12 []).regs.srcWidth.toNat ∧ 1 < (picture 0 32 3 2 12 []).regs.srcHeight.toNat ∧
      (5 : Fin 256).val = rowNibble (bytes 8 [0x12, 0x50]) (srcRow (picture 0 4 3 1 4 []).regs 0) 2 ∧
      (255 : Fin 256).val = (Mem.read (bytes 8 [1, 2, 255]) (srcRow (picture 0 8 3 1 4 []).regs 0 + 2)).toNat :=
  ⟨by decide, ready (by decide), ready (by decide), ready (by decide), ready (by decide), ready (by decide),
    by decide, by decide, by decide, by decide⟩

/-- The margins and dark tests of the matchers on the thresholds of `s`, as `MatchWritesLumaAndSymbol` spells them. -/
abbrev Red (s : State) (r g b : Int) : Prop := (s.regs.marginRB.toNat : Int) < r - b ∧ (s.regs.marginRG.toNat : Int) < r - g
abbrev Yellow (s : State) (r g b : Int) : Prop :=
  (s.regs.marginY.toNat : Int) < r - b ∧ (s.regs.marginY.toNat : Int) < g - b
abbrev Dark3 (s : State) (r g b : Nat) : Prop :=
  (2 * g + r + b) / 4 < s.regs.thr3Luma.toNat ∧ r < s.regs.thr3Chan.toNat
abbrev Dark4 (s : State) (r g b : Nat) : Prop :=
  (2 * g + r + b) / 4 < s.regs.thr4Luma.toNat ∨ (r < s.regs.thr4Chan.toNat ∧ g < s.regs.thr4Chan.toNat)

/-- Colours at the edges of each clause under the reset thresholds (95_test_vectors.md 2.4). -/
theorem witness_MatchWritesLumaAndSymbol :
    (∀ m, m ≤ 4 → (picture m 1 1 1 4 []).regs.mode.toNat = m) ∧ (Instr.matchColour 255 255 255).WellFormed ∧
      (let s := picture 0 1 1 1 4 []
       Dark3 s 79 0 0 ∧ (¬Dark3 s 80 0 0 ∧ Red s 80 0 0) ∧ (¬Dark3 s 102 32 70 ∧ ¬Red s 102 32 70) ∧ Red s 103 32 70 ∧
         Dark3 s 60 60 0 ∧ (¬Dark3 s 133 133 100 ∧ Yellow s 133 133 100) ∧
         (¬Dark3 s 132 132 100 ∧ ¬Yellow s 132 132 100) ∧ Dark4 s 255 0 0 ∧ Dark4 s 79 79 0 ∧
         (¬Dark4 s 255 60 0 ∧ Red s 255 60 0) ∧ (¬Dark4 s 160 200 50 ∧ ¬Red s 160 200 50 ∧ Yellow s 160 200 50) ∧
         (¬Dark4 s 180 140 120 ∧ ¬Red s 180 140 120 ∧ ¬Yellow s 180 140 120)) := by decide

theorem witness_PureGreyTakesTheGreyPath :
    255 ≤ 255 ∧ (∀ m, m ≤ 4 → (picture m 1 1 1 4 []).regs.mode.toNat ≤ 4) ∧ (picture 3 1 1 1 4 []).regs.mode ≠ 4 ∧
      (picture 4 1 1 1 4 []).regs.mode = 4 := by decide

/-! ### DGREY and DCOLOR -/

/-- As wide as the line buffers, 8 columns; and 5 columns, whose pad bits are 5 to 7. -/
theorem witness_DgreyDiffusesTheError :
    (let s := picture 0 8 8 2 8 []
     s.regs.mode = 0 ∧ SourceReady s ∧ Plane0Ready s 1 ∧ s.regs.srcWidth.toNat ≤ s.params.maxW) ∧
      (let s := picture 0 8 5 2 8 []
       s.regs.mode = 0 ∧ SourceReady s ∧ Plane0Ready s 1 ∧ s.regs.srcWidth.toNat ≤ s.params.maxW ∧
         s.regs.srcWidth.toNat ≤ 5 ∧ 7 < 8 * ((s.regs.srcWidth.toNat + 7) / 8)) :=
  ⟨⟨by decide, ready (by decide), plane0 (by decide), by decide⟩, by decide, ready (by decide), plane0 (by decide),
    by decide, by decide, by decide⟩

theorem witness_DcolorDiffusesTheErrors :
    (let s := picture 1 24 8 2 24 []
     modeOf s.regs.mode = some .bwr ∧ SourceReady s ∧ s.regs.srcBpp = 24 ∧ s.regs.srcWidth.toNat ≤ s.params.maxW) ∧
      (let s := picture 2 32 8 2 32 []
       modeOf s.regs.mode = some .bwy ∧ SourceReady s ∧ s.regs.srcBpp = 32 ∧ s.regs.srcWidth.toNat ≤ s.params.maxW) ∧
      (let s := picture 3 24 1 1 4 []
       modeOf s.regs.mode = some .bwyr ∧ SourceReady s ∧ s.regs.srcBpp = 24 ∧ s.regs.srcWidth.toNat ≤ s.params.maxW) :=
  ⟨⟨by decide, ready (by decide), by decide, by decide⟩, ⟨by decide, ready (by decide), by decide, by decide⟩,
    by decide, ready (by decide), by decide, by decide⟩

theorem witness_SymbolColours :
    (Regs.reset.colorRed = if Mode.bwr = .bwr then Regs.reset.colorRed else Regs.reset.colorYel) ∧
      (Regs.reset.colorYel = if Mode.bwy = .bwr then Regs.reset.colorRed else Regs.reset.colorYel) ∧
      (Regs.reset.colorYel = if Mode.bwyr = .bwr then Regs.reset.colorRed else Regs.reset.colorYel) := by decide

theorem witness_NoSlotLeavesItsRange :
    (picture 0 8 2 2 4 [200, 100]).status.err = false ∧
      (∃ t, exec .dgrey (picture 0 8 2 2 4 [200, 100]) = .next t ∧ (!t.status.err) = true) ∧
      ∃ t, exec .dcolor (picture 1 24 2 2 8 [200, 100]) = .next t ∧ (!t.status.err) = true :=
  ⟨by decide, gives (p := fun t => !t.status.err) (by decide), gives (p := fun t => !t.status.err) (by decide)⟩

/-! ### PACK and COPY1 -/

/-- Each row of the mode table, nine pixels wide. -/
theorem witness_PackRoundTrip :
    ((.binary, 0, 1, 1) ∈ modeTable ∧ (picture 0 8 9 2 12 []).regs.mode = 0 ∧ PackReady (picture 0 8 9 2 12 []) 1 1) ∧
      ((.bwr, 1, 2, 1) ∈ modeTable ∧ (picture 1 8 9 2 12 []).regs.mode = 1 ∧ PackReady (picture 1 8 9 2 12 []) 2 1) ∧
      ((.bwy, 2, 2, 1) ∈ modeTable ∧ (picture 2 8 9 2 12 []).regs.mode = 2 ∧ PackReady (picture 2 8 9 2 12 []) 2 1) ∧
      ((.bwyr, 3, 1, 2) ∈ modeTable ∧ (picture 3 8 9 2 12 []).regs.mode = 3 ∧ PackReady (picture 3 8 9 2 12 []) 1 2) ∧
      ((.gray4, 4, 2, 1) ∈ modeTable ∧ (picture 4 8 9 2 12 []).regs.mode = 4 ∧ PackReady (picture 4 8 9 2 12 []) 2 1) := by
  refine ⟨⟨by decide, by decide, ready ?_, plane0 ?_, fun h => by cases h⟩,
    ⟨by decide, by decide, ready ?_, plane0 ?_, fun _ => plane1 ?_⟩,
    ⟨by decide, by decide, ready ?_, plane0 ?_, fun _ => plane1 ?_⟩,
    ⟨by decide, by decide, ready ?_, plane0 ?_, fun h => by cases h⟩,
    by decide, by decide, ready ?_, plane0 ?_, fun _ => plane1 ?_⟩ <;> decide

/-- `PackPadsRowsWithZeroBits` has the hypotheses of `PackRoundTrip`; its pad bits of nine pixels are 9 to 15. -/
theorem witness_PackPadsRowsWithZeroBits :
    ((.binary, 0, 1, 1) ∈ modeTable ∧ (picture 0 8 9 2 12 []).regs.mode = 0 ∧ PackReady (picture 0 8 9 2 12 []) 1 1) ∧
      (picture 0 8 9 2 12 []).regs.srcWidth.toNat * 1 ≤ 9 ∧ 15 < 8 * (((picture 0 8 9 2 12 []).regs.srcWidth.toNat * 1 + 7) / 8) :=
  ⟨⟨by decide, by decide, ready (by decide), plane0 (by decide), fun h => by cases h⟩, by decide, by decide⟩

/-- Widths with and without pad bits. -/
theorem witness_CopyInvertsTheSource :
    (let s := picture 0 1 9 2 4 []
     s.regs.mode = 0 ∧ s.regs.srcBpp = 1 ∧ SourceReady s ∧ Plane0Ready s 1 ∧ s.regs.srcWidth.toNat % 8 ≠ 0) ∧
      (let s := picture 0 1 16 2 4 []
       s.regs.mode = 0 ∧ s.regs.srcBpp = 1 ∧ SourceReady s ∧ Plane0Ready s 1 ∧ s.regs.srcWidth.toNat % 8 = 0) :=
  ⟨⟨by decide, by decide, ready (by decide), plane0 (by decide), by decide⟩,
    by decide, by decide, ready (by decide), plane0 (by decide), by decide⟩

theorem witness_CopyAndPackAgree :
    (let s := { picture 0 1 9 2 4 [] with regs := { (picture 0 1 9 2 4 []).regs with thrGrey := 1 } }
     s.regs.mode = 0 ∧ s.regs.srcBpp = 1 ∧ SourceReady s ∧ Plane0Ready s 1 ∧ 1 ≤ s.regs.thrGrey.toNat) ∧
      (let s := { picture 0 1 9 2 4 [] with regs := { (picture 0 1 9 2 4 []).regs with thrGrey := 0 } }
       s.regs.mode = 0 ∧ s.regs.srcBpp = 1 ∧ SourceReady s ∧ Plane0Ready s 1 ∧ s.regs.thrGrey = 0) :=
  ⟨⟨by decide, by decide, ready (by decide), plane0 (by decide), by decide⟩,
    by decide, by decide, ready (by decide), plane0 (by decide), by decide⟩

/-! ### Geometry -/

/-- A source that ends exactly at the end of memory: VFLIP, INVERT and their squares. -/
theorem witness_VflipSwapsTheRows : SourceReady (picture 0 8 2 22 4 []) := ready (by decide)

theorem witness_InvertNegatesEveryByte : SourceReady (picture 0 8 2 22 4 []) := ready (by decide)

theorem witness_TransformsUndoThemselves :
    SourceReady (picture 0 8 2 22 4 []) ∧ Mem.wf (picture 0 8 2 22 4 [1, 0, 3]).mem := ⟨ready (by decide), by decide⟩

/-- Each depth, and 1 bpp at the widths 8 (mirrored) and 7 (skipped). -/
theorem witness_MirrorReversesThePixels :
    SourceReady (picture 0 1 8 2 4 []) ∧ SourceReady (picture 0 1 7 2 4 []) ∧ SourceReady (picture 0 4 3 2 4 []) ∧
      SourceReady (picture 0 8 3 2 4 []) ∧ SourceReady (picture 0 24 3 2 12 []) ∧ SourceReady (picture 0 32 3 2 12 []) :=
  ⟨ready (by decide), ready (by decide), ready (by decide), ready (by decide), ready (by decide), ready (by decide)⟩

theorem witness_RotateHalfTurnFlipsAndMirrors :
    SourceReady (picture 0 1 8 2 4 []) ∧ SourceReady (picture 0 1 7 2 4 []) := ⟨ready (by decide), ready (by decide)⟩

/-- The scratch buffer next to the source, `[8, 48)` and `[48, 88)`, at ten columns and ten rows: no pad in the old
rows' first nibbles, and a pitch of 8 in the new ones. -/
theorem witness_RotateQuarterTurnClockwise :
    SourceReady (picture 0 4 5 10 4 []) ∧ ScratchReady (picture 0 4 5 10 4 []) :=
  ⟨ready (by decide), scratch (by decide)⟩

theorem witness_RotateQuarterTurnCounterClockwise :
    SourceReady (picture 0 4 5 10 4 []) ∧ ScratchReady (picture 0 4 5 10 4 []) :=
  ⟨ready (by decide), scratch (by decide)⟩

theorem witness_RotationsAtOtherDepthsAreSkipped :
    SourceReady (picture 0 1 3 2 4 []) ∧ (picture 0 1 3 2 4 []).regs.srcBpp ≠ 4 ∧ SourceReady (picture 0 32 3 2 12 []) ∧
      (picture 0 32 3 2 12 []).regs.srcBpp ≠ 4 := ⟨ready (by decide), by decide, ready (by decide), by decide⟩

theorem witness_FourQuarterTurnsRestoreTheImage :
    SourceReady (picture 0 4 3 2 8 []) ∧ ScratchReady (picture 0 4 3 2 8 []) := ⟨ready (by decide), scratch (by decide)⟩

/-! ### The interrupt, races and the host -/

theorem witness_InterruptFollowsDone :
    (∃ t, exec .nop (picture 0 8 2 1 4 []) = .next t ∧ t.status.done = true) ∧
      (let s := { picture 0 8 2 1 4 [] with status := { Status.reset with done := true } }
       s.inReset = false ∧ s.status.busy = false ∧ s.status.err = false) ∧ (2 : Word).toNat / 2 % 2 = 1 :=
  ⟨gives (p := fun t => t.status.done) (by decide), by decide, by decide⟩

/-- A raced MIRROR, a raced SAMPLE that completes and one that fails a check. -/
theorem witness_ARaceStaysInTheWriteRegions :
    (let s := { running (picture 0 8 2 1 4 [1, 2]) 0x31000000 with raced := true }
     s.status.busy = true ∧ decode s.cmdWord = .ok .mirror ∧ s.raced = true ∧ (∃ t, exec .mirror s = .next t) ∧
       ∀ a ∈ [7, 12], ∀ g ∈ writeIntervals s.regs .mirror, ¬(g.1 ≤ a ∧ a < g.1 + g.2)) ∧
      (let s := { running (picture 0 8 2 1 4 [1, 2]) 0x01001000 with raced := true }
       s.status.busy = true ∧ decode s.cmdWord = .ok (.sample 1 0) ∧ s.raced = true ∧
         (∃ t, exec (.sample 1 0) s = .next t) ∧ ∀ n, ¬CheckFails s (.sample 1 0) n) ∧
      (let s := { running (picture 0 8 2 1 4 [1, 2]) 0x01002000 with raced := true }
       s.status.busy = true ∧ decode s.cmdWord = .ok (.sample 2 0) ∧ s.raced = true ∧
         (∃ t, exec (.sample 2 0) s = .next t) ∧ ∃ n, CheckFails s (.sample 2 0) n) :=
  ⟨⟨by decide, by decide, by decide, completes (by decide), by decide⟩,
    ⟨by decide, by decide, by decide, completes (by decide), noneFails (by decide)⟩,
    by decide, by decide, by decide, completes (by decide), 6, (checkFails_iff _ _ _).2 (by decide)⟩

/-- The last byte of memory and the first address past it. -/
theorem witness_HostMemoryIsPlainRam :
    (picture 0 8 2 1 4 []).params.memSize ≤ (96 : Word).toNat ∧ (95 : Word).toNat < (picture 0 8 2 1 4 []).params.memSize ∧
      (picture 0 8 2 1 4 []).status.busy = false ∧ 94 ≠ (95 : Word).toNat := by decide

/-- Each kind of bad access, and what the machine answers to it. -/
theorem witness_BadPortAccessesAreRefused :
    (AccessWidth.byte ≠ .word ∧ AccessWidth.half ≠ .word ∧ (0x006 : BitVec 11).toNat % 4 ≠ 0) ∧
      RefusedBy (step (State.reset.queue (.regRead 0x006 .word))) (.badPortAccess 0x006 .word) = true := by decide

/-- The first and the last RW register, and the ends of the palette. -/
theorem witness_RegisterWriteSetsItsFields :
    (picture 0 8 2 1 4 []).inReset = false ∧ (picture 0 8 2 1 4 []).status.busy = false ∧
      (registerWrites Regs.reset 0).head?.map Prod.fst = some 0x004 ∧
      (registerWrites Regs.reset 0).getLast?.map Prod.fst = some 0x094 ∧
      BitVec.ofNat 11 (0x400 + 4 * (0 : Fin 256).val) = 0x400 ∧
      BitVec.ofNat 11 (0x400 + 4 * (255 : Fin 256).val) = 0x7FC := by decide

/-- An idle and a running machine; the STATUS a running command shows. -/
theorem witness_RegisterReadsShowTheirFields :
    (picture 0 8 2 1 4 []).inReset = false ∧ (running (picture 0 8 2 1 4 []) 0).inReset = false ∧
      (0x008, 1) ∈ registerReads (running (picture 0 8 2 1 4 []) 0) := by decide

end Sys2Proof.Tests
end

section
/-! The parameters hold still (00_scope.md R5): no operation of the engine, the host or the platform changes `MEM_SIZE`
or `MAX_W`, so no step does. -/

namespace Sys2Proof.Machine

/-! ## The engine's turn -/

@[simp] theorem effectOf_params (i : Instr) (s : State) : (effectOf i s).params = s.params := by
  obtain ⟨r, k, m, g, h⟩ := effectOf_other i s
  rw [h]

/-- A command keeps the parameters, whether a check fails or it completes. -/
theorem exec_params {i : Instr} {s t : State} (h : exec i s = .next t) : t.params = s.params := by
  rw [exec_eq] at h
  obtain ⟨e, -, rfl⟩ | ⟨-, rfl⟩ := runCommand_cases h
  · exact raiseError_params s e
  · simp

@[simp] theorem scramble_params (gs : List Region) (s : State) : (scramble gs s).params = s.params := by
  obtain ⟨m, n, h, -⟩ := scramble_other gs s
  rw [h]

@[simp] theorem settleRace_params (i : Instr) (s t : State) : (settleRace i s t).params = t.params := by
  unfold settleRace
  split
  · dsimp only
    split <;> simp
  · rfl

theorem runAccepted_params {s t : State} (h : runAccepted s = .next t) : t.params = s.params := by
  cases hd : decode s.cmdWord with
  | error e =>
    rw [runAccepted_illegal hd] at h
    cases h
    simp
  | ok i =>
    cases he : exec i s with
    | next u =>
      rw [runAccepted_next hd he] at h
      cases h
      simpa using exec_params he
    | fault f => simp [runAccepted, hd, he] at h
    | refused r => simp [runAccepted, hd, he] at h

theorem engineStep_params {s t : State} (h : engineStep s = .next t) : t.params = s.params := by
  cases hb : s.status.busy with
  | false => rw [engineStep_idle hb] at h; cases h; rfl
  | true => rw [engineStep_busy hb] at h; exact runAccepted_params h

/-! ## The host's and the platform's actions -/

@[simp] theorem writePort_params (g : PortReg) (v : Word) (s : State) : (writePort g v s).params = s.params := by
  have registers : ∀ r, (if s.status.busy then setOverrun s else { s with regs := r }).params = s.params := by
    intro r; split <;> simp
  cases g with
  | status => exact acknowledge_params s v
  | cmd => simp only [writePort]; split <;> simp
  | _ => exact registers _

theorem hostRegWrite_params {o : BitVec 11} {w : AccessWidth} {v : Word} {s t : State}
    (h : hostRegWrite o w v s = .next t) : t.params = s.params := by
  unfold hostRegWrite at h
  split at h
  · cases h; split <;> simp
  · cases h

theorem hostRegRead_params {o : BitVec 11} {w : AccessWidth} {s t : State}
    (h : hostRegRead o w s = .next t) : t.params = s.params := by
  unfold hostRegRead at h
  split at h
  · cases h; split <;> rfl
  · cases h

theorem hostMemWrite_params {a : Word} {v : Byte} {s t : State} (h : hostMemWrite a v s = .next t) :
    t.params = s.params := by
  unfold hostMemWrite at h
  split at h
  · cases h; simp
  · cases h

theorem hostMemRead_params {a : Word} {s t : State} (h : hostMemRead a s = .next t) : t.params = s.params := by
  unfold hostMemRead at h
  split at h
  · cases h; split <;> simp
  · cases h

@[simp] theorem assertReset_params (s : State) : (assertReset s).params = s.params := by simp [assertReset]

theorem hostStep_params {e : HostEvent} {s t : State} (h : hostStep e s = .next t) : t.params = s.params := by
  cases e with
  | regWrite o w v => exact hostRegWrite_params h
  | regRead o w => exact hostRegRead_params h
  | memWrite a v => exact hostMemWrite_params h
  | memRead a => exact hostMemRead_params h
  | assertReset => cases h; exact assertReset_params s
  | releaseReset => cases h; exact releaseReset_params s
  | engineTurn => exact engineStep_params h

/-! ## One step -/

theorem step_params {s t : State} (h : step s = .next t) : t.params = s.params := by
  cases hi : s.inputs with
  | nil => rw [step_nil hi] at h; exact engineStep_params h
  | cons e rest => rw [step_cons hi] at h; exact hostStep_params (s := { s with inputs := rest }) h

end Sys2Proof.Machine

namespace Sys2Proof.Proofs

/-- Settles O27: whether the host, the platform or the engine acts, the step keeps the parameters. -/
theorem parametersNeverChange : Obligations.ParametersNeverChange :=
  fun _ _ h => Machine.step_params h

end Sys2Proof.Proofs
end

section
/-! Where a command writes (20_memory.md R70, R79): the regions of the machine are the intervals Sys2Proof.Safety writes
out, and the effect of a command that passed its checks writes inside them alone. -/

namespace Sys2Proof.Machine

open Sys2Proof.Config (Params)

/-! ## The write regions, spelled twice -/

theorem bpsOf_eq_modeBits (r : Regs) : bpsOf r = modeBits r := by
  have h : ∀ v : BitVec 3,
      (match modeOf v with | some m => (planeShape m).2 | none => 1) = if v = 3 then 2 else 1 := by decide
  exact h r.mode

theorem is4bpp_iff (r : Regs) : is4bpp r = true ↔ r.srcBpp = 4 := by
  have h : ∀ v : BitVec 6, (bppOf v == some Bpp.b4) = true ↔ v = 4 := by decide
  exact h r.srcBpp

/-- A region as the interval of Sys2Proof.Safety. -/
def Region.interval (g : Region) : Nat × Nat := (g.base, g.size)

theorem packPlanes_intervals (r : Regs) : (packPlanes r).map Region.interval = packIntervals r := by
  have modes : ∀ v : BitVec 3, v = 0 ∨ v = 1 ∨ v = 2 ∨ v = 3 ∨ v = 4 ∨ v = 5 ∨ v = 6 ∨ v = 7 := by decide
  rcases modes r.mode with h | h | h | h | h | h | h | h <;>
    simp [packPlanes, packIntervals, h, modeOf, planeShape, Region.interval, plane0Region, plane1Region, planeSize,
      destPitch_eq, Regs.width, Regs.height]

/-- The regions a command writes are the intervals of 20_memory.md R70. -/
theorem writeRegions_intervals (r : Regs) (i : Instr) :
    (writeRegions r i).map Region.interval = writeIntervals r i := by
  have plane : Region.interval (plane0Region r (destPitch r.width (bpsOf r))) =
      (r.dst0Base.toNat, planeSize r (modeBits r)) := by rw [bpsOf_eq_modeBits]; rfl
  have scratch : (if is4bpp r then [scratchRegion r] else []).map Region.interval =
      if r.srcBpp = 4 then [scrInterval r] else [] := by
    simp only [is4bpp_iff]
    split <;> rfl
  cases i with
  | dgrey => simp [writeRegions, writeIntervals, plane]
  | copy1 => simp [writeRegions, writeIntervals, plane]
  | pack => exact packPlanes_intervals r
  | rot90 => exact scratch
  | rot270 => exact scratch
  | _ => rfl

theorem inRegions_writeRegions {r : Regs} {i : Instr} {a : Nat} :
    InRegions (writeRegions r i) a ↔ ∃ g ∈ writeIntervals r i, g.1 ≤ a ∧ a < g.1 + g.2 := by
  simp [← writeRegions_intervals, InRegions, Region.interval]

theorem inRegions_one {g : Region} {a : Nat} : InRegions [g] a ↔ g.Has a := by simp [InRegions]

/-! ## Buffers of rows -/

/-- The bytes of a buffer of `h` rows of `p` bytes are the bytes of its rows. -/
theorem region_has_iff_row {base p h a : Nat} :
    (Region.mk base (p * h)).Has a ↔ ∃ y, y < h ∧ ∃ k, k < p ∧ a = base + y * p + k := by
  constructor
  · rintro ⟨hlo, hhi⟩
    have hlt : a - base < p * h := by simp only at hlo hhi; omega
    have hp : 0 < p := Nat.pos_of_mul_pos_right (Nat.zero_lt_of_lt hlt)
    refine ⟨(a - base) / p, Nat.div_lt_of_lt_mul hlt, (a - base) % p, Nat.mod_lt _ hp, ?_⟩
    have := Nat.div_add_mod' (a - base) p
    simp only at hlo
    omega
  · rintro ⟨y, hy, k, hk, rfl⟩
    exact row_byte_in hy hk

/-- Byte `k` of the row of image row `y` is a byte of region SRC. -/
theorem srcRegion_has {r : Regs} {y k : Nat} (hy : y < r.height) (hk : k < r.pitch) :
    (srcRegion r).Has (imageRowAddr r y + k) := row_byte_in (storageRow_lt hy) hk

/-- The planes PACK writes in mode `m`, plane by plane (44_packer.md R220, R224). -/
theorem packPlanes_eq {r : Regs} {m : Mode} (hm : modeOf r.mode = some m) :
    packPlanes r = (List.range (planeShape m).1).map fun p =>
      { base := planeBase r p, size := destPitch r.width (planeShape m).2 * r.height } := by
  cases m <;> simp [packPlanes, hm, planeShape, plane0Region, plane1Region, planeBase, List.range_succ]

theorem inRegions_packPlanes {r : Regs} {m : Mode} (hm : modeOf r.mode = some m) {a : Nat} :
    InRegions (packPlanes r) a ↔ ∃ p, p < (planeShape m).1 ∧ ∃ y, y < r.height ∧
      ∃ k, k < destPitch r.width (planeShape m).2 ∧
        a = planeBase r p + y * destPitch r.width (planeShape m).2 + k := by
  simp only [InRegions, packPlanes_eq hm, List.mem_map, List.mem_range, ← region_has_iff_row]
  constructor
  · rintro ⟨_, ⟨p, hp, rfl⟩, ha⟩; exact ⟨p, hp, ha⟩
  · rintro ⟨p, hp, ha⟩; exact ⟨_, ⟨p, hp, rfl⟩, ha⟩

/-- The bits of a pixel at a legal depth (10_state.md R32). -/
def Bpp.bits : Bpp → Nat
  | .b1 => 1
  | .b4 => 4
  | .b8 => 8
  | .b24 => 24
  | .b32 => 32

theorem bppOf_bits {v : BitVec 6} {d : Bpp} (h : bppOf v = some d) : v.toNat = d.bits := by
  unfold bppOf at h
  split at h <;> cases h <;> assumption

/-- The least pitch holds every bit of a row (20_memory.md R67). -/
theorem le_minPitch (w b : Nat) : w * b ≤ 8 * minPitch w b := by unfold minPitch; omega

/-- A row of a source whose pitch is good holds every bit of its pixels. -/
theorem pitchOk_holds_row {r : Regs} {d : Bpp} (h : pitchOk r = true) (hd : bppOf r.srcBpp = some d) :
    r.width * d.bits ≤ 8 * r.pitch := by
  have hp : minPitch r.width d.bits ≤ r.pitch := by
    simp only [pitchOk, Bool.and_eq_true, decide_eq_true_eq, bppOf_bits hd] at h
    exact h.2
  have := le_minPitch r.width d.bits
  omega

/-! ## What passing V4 says of the mode and the depth (40_command.md R123) -/

theorem dgrey_mode {r : Regs} (h : configUnsupported r .dgrey = false) : modeOf r.mode = some .binary := by
  simpa [configUnsupported] using h

theorem copy1_mode {r : Regs} (h : configUnsupported r .copy1 = false) :
    modeOf r.mode = some .binary ∧ bppOf r.srcBpp = some .b1 := by simpa [configUnsupported] using h

theorem dcolor_depth {r : Regs} (h : configUnsupported r .dcolor = false) :
    bppOf r.srcBpp = some .b24 ∨ bppOf r.srcBpp = some .b32 := by
  simp only [configUnsupported, Bool.or_eq_false_iff, Bool.not_eq_false', Bool.or_eq_true, beq_iff_eq] at h
  exact h.2

/-! ## Where an effect writes -/

/-- The bytes of the pixels of a row, `n` each, are bytes of the row where the pitch holds them. -/
theorem pixel_byte_in_row {P : Nat → Prop} {n row width pitch : Nat} (hp : width * (8 * n) ≤ 8 * pitch)
    (h : ∀ k, k < pitch → P (row + k)) : ∀ x j, x < width → j < n → P (row + n * x + j) := by
  intro x j hx hj
  have hlt : n * (x + 1) ≤ n * width := Nat.mul_le_mul_left _ hx
  rw [Nat.mul_left_comm, Nat.mul_comm width] at hp
  rw [Nat.mul_add] at hlt
  rw [Nat.add_assoc]
  exact h _ (by omega)

/-- The mirror of a buffer whose pitch holds its pixels writes bytes of its rows. -/
theorem mirrorRows_via {P : Nat → Prop} {d : Bpp} {base width height pitch : Nat} {w : Work}
    (hp : width * d.bits ≤ 8 * pitch) (h : ∀ y k, y < height → k < pitch → P (base + y * pitch + k)) :
    Mem.Via P w.mem (mirrorRows d base width height pitch w).mem := by
  refine forRows_via fun y u hy => ?_
  cases d with
  | b1 => exact mirrorRow1_via fun k hk => h _ _ hy (by simp only [Bpp.bits] at hp; omega)
  | b4 => exact mirrorRow4_via fun x hx => h _ _ hy (by simp only [Bpp.bits] at hp; omega)
  | b8 => exact mirrorRowBytes_via (pixel_byte_in_row hp fun k => h y k hy)
  | b24 => exact mirrorRowBytes_via (pixel_byte_in_row hp fun k => h y k hy)
  | b32 => exact mirrorRowBytes_via (pixel_byte_in_row hp fun k => h y k hy)

/-- The colour bytes of a pixel of a 24- or 32-bpp source are bytes of region SRC. -/
theorem pixel_has {r : Regs} (hp : pitchOk r = true)
    (hd : bppOf r.srcBpp = some .b24 ∨ bppOf r.srcBpp = some .b32) {x y j : Nat} (hx : x < r.width)
    (hy : y < r.height) (hj : j < 3) : (srcRegion r).Has (imageRowAddr r y + bytesPerPixel r * x + j) := by
  rw [Nat.add_assoc]
  refine srcRegion_has hy ?_
  rcases hd with hd | hd <;> have hw := pitchOk_holds_row hp hd <;>
    simp only [bytesPerPixel, bppOf_bits hd, Bpp.bits] at hw ⊢ <;> omega

theorem flipSource_via (p : Params) (r : Regs) (w : Work) : Mem.Via (srcRegion r).Has w.mem (vflipWork p r w).mem :=
  flipRows_via fun _ _ hy hk => row_byte_in hy hk

theorem mirrorEffect_via {s : State} (hp : pitchOk s.regs = true) :
    Mem.Via (srcRegion s.regs).Has s.mem (mirrorEffect s).mem := by
  unfold mirrorEffect
  split
  · exact .refl
  · simp only [runWork_mem, mirrorWork]
    split
    · rename_i d hd
      exact mirrorRows_via (base := s.regs.base) (w := s.work) (pitchOk_holds_row hp hd) fun _ _ hy hk =>
        row_byte_in hy hk
    · exact .refl

theorem rot90Work_via_scratch (p : Params) (r : Regs) (w : Work) :
    Mem.Via (scratchRegion r).Has w.mem (rot90Work p r w).mem :=
  rot90Work_via p fun _ _ hy hk => row_byte_in hy hk

theorem rot270Work_via_scratch (p : Params) (r : Regs) (w : Work) :
    Mem.Via (scratchRegion r).Has w.mem (rot270Work p r w).mem :=
  ((rot90Work_via_scratch p r w).trans (flipRows_via fun _ _ hy hk => row_byte_in hy hk)).trans
    (mirrorRows_via (le_minPitch r.height 4) fun _ _ hy hk => row_byte_in hy hk)

/-- A rotation by 90 or 270 degrees writes the scratch buffer, where it writes at all. -/
theorem rotation_via {body : Params → Regs → Work → Work} {s : State}
    (h : Mem.Via (scratchRegion s.regs).Has s.mem (s.runWork body).mem) :
    Mem.Via (InRegions (if is4bpp s.regs then [scratchRegion s.regs] else [])) s.mem
      (if is4bpp s.regs then exchangeSource (s.runWork body) else setGeomSkip s).mem := by
  split
  · exact h.mono fun a ha => inRegions_one.2 ha
  · exact .refl

/-- The effect of a command that passed its checks writes in its write regions alone (20_memory.md R79). -/
theorem effectOf_via {i : Instr} {s : State} (hv : validate s.params s.regs i = none) :
    Mem.Via (InRegions (writeRegions s.regs i)) s.mem (effectOf i s).mem := by
  obtain ⟨hsrc, hcfg, -, -, -, -⟩ := validate_eq_none.1 hv
  have one : ∀ {g : Region} {n : Mem}, Mem.Via g.Has s.mem n → Mem.Via (InRegions [g]) s.mem n :=
    fun h => h.mono fun a ha => inRegions_one.2 ha
  cases i with
  | nop => exact .refl
  | sample x y => exact .refl
  | matchColour r g b => simp only [effectOf, matchEffect]; split <;> exact .refl
  | dgrey =>
    simp only [writeRegions, bpsOf_binary (dgrey_mode hcfg)]
    exact one (forRows_via (w := ditherInit s.params .c0 s.work) fun y u hy =>
      dgreyRow_via fun k hk => row_byte_in hy hk)
  | dcolor =>
    obtain ⟨-, hp⟩ := hsrc rfl
    simp only [effectOf, dcolorEffect]
    split
    · exact one (forRows_via (w := ditherInit _ .c2 (ditherInit _ .c1 (ditherInit _ .c0 s.work))) fun y u hy =>
        dcolorRow_via fun x j hx hj => pixel_has hp (dcolor_depth hcfg) hx hy hj)
    · exact .refl
  | pack =>
    simp only [effectOf, packEffect]
    split
    · rename_i m hm
      exact forPlanes_via (w := s.work) fun p u hp => forRows_via fun y v hy => packRow_via fun k hk =>
        (inRegions_packPlanes hm).2 ⟨p, hp, y, hy, k, hk, rfl⟩
    · exact .refl
  | copy1 =>
    simp only [writeRegions, bpsOf_binary (copy1_mode hcfg).1]
    exact one (copyWork_via (w := s.work) s.params fun y k hy hk => row_byte_in hy hk)
  | vflip => exact one (flipSource_via s.params s.regs s.work)
  | mirror => exact one (mirrorEffect_via (hsrc rfl).2)
  | rot90 => exact rotation_via (rot90Work_via_scratch s.params s.regs s.work)
  | rot180 =>
    exact one ((flipSource_via s.params s.regs s.work).trans (mirrorEffect_via (s := s.runWork vflipWork) (hsrc rfl).2))
  | rot270 => exact rotation_via (rot270Work_via_scratch s.params s.regs s.work)
  | invert => exact one (invertWork_via (P := (srcRegion s.regs).Has) (w := s.work) s.params fun k hk =>
      ⟨Nat.le_add_right _ _, Nat.add_lt_add_left hk _⟩)

/-! ## Where a command writes -/

/-- A command writes in its write regions, or ends with an error and writes no memory (20_memory.md R79, 40_command.md
R124). -/
theorem exec_via {i : Instr} {s t : State} (h : exec i s = .next t) :
    Mem.Via (InRegions (writeRegions s.regs i)) s.mem t.mem := by
  rw [exec_eq] at h
  obtain ⟨e, -, rfl⟩ | ⟨hv, rfl⟩ := runCommand_cases h
  · exact .refl
  · exact effectOf_via hv

/-- An effect leaves ERR as it was. -/
theorem effectOf_err (i : Instr) (s : State) : (effectOf i s).status.err = s.status.err := by
  obtain ⟨r, k, m, g, h⟩ := effectOf_other i s
  rw [h]

/-- A command that newly sets ERR failed a check, so memory is as it was. -/
theorem exec_mem_of_err {i : Instr} {s t : State} (h : exec i s = .next t) (hs : s.status.err = false)
    (ht : t.status.err = true) : t.mem = s.mem := by
  rw [exec_eq] at h
  obtain ⟨e, -, rfl⟩ | ⟨-, rfl⟩ := runCommand_cases h
  · exact raiseError_mem s e
  · simp [effectOf_err, hs] at ht

end Sys2Proof.Machine

namespace Sys2Proof.Proofs

open Sys2Proof.Machine

/-- Settles O23: a run writes at addresses of its write regions alone, and the error mechanism writes no memory. -/
theorem writesStayInTheWriteRegions : Obligations.WritesStayInTheWriteRegions := by
  intro i s t h
  refine ⟨fun a ha => (exec_via h).read_outside fun hin => ?_, exec_mem_of_err h⟩
  obtain ⟨g, hg, hga⟩ := inRegions_writeRegions.1 hin
  exact ha g hg hga

end Sys2Proof.Proofs
end

section
/-! The host beside the engine: a race the host causes (20_memory.md R75), its own accesses to memory (R60) and its
accesses to the register port (R68). -/

namespace Sys2Proof.Machine

/-! ## When a SAMPLE passes its checks -/

theorem sourceInvalid_iff (r : Regs) :
    sourceInvalid r = true ↔
      r.srcWidth = 0 ∨ r.srcHeight = 0 ∨ r.srcBpp.toNat ∉ [1, 4, 8, 24, 32] := by
  have depths : ∀ v : BitVec 6, (bppOf v).isNone = true ↔ v.toNat ∉ [1, 4, 8, 24, 32] := by decide
  have zero : ∀ v : BitVec 16, (v.toNat == 0) = true ↔ v = 0 := fun v => by
    rw [beq_iff_eq, ← BitVec.toNat_inj]; rfl
  simp only [sourceInvalid, Regs.width, Regs.height, Bool.or_eq_true, zero, depths, or_assoc]

theorem pitchOk_iff (r : Regs) :
    pitchOk r = true ↔
      r.srcPitch.toNat % 4 = 0 ∧ leastPitch r.srcWidth.toNat r.srcBpp.toNat ≤ r.srcPitch.toNat := by
  rw [pitchOk, Bool.and_eq_true, beq_iff_eq, decide_eq_true_eq]; rfl

theorem needsSource_iff (i : Instr) : needsSource i = true ↔ ReadsSource i := by
  cases i <;> simp [needsSource, ReadsSource]

/-- Of the checks of 40_command.md R123 only V2, V3, V6 and V7 can fail for a SAMPLE. -/
theorem checkFails_sample {s : State} {x y : Nat} :
    (∃ n, CheckFails s (.sample x y) n) ↔
      CheckFails s (.sample x y) 2 ∨ CheckFails s (.sample x y) 3 ∨ CheckFails s (.sample x y) 6 ∨
        CheckFails s (.sample x y) 7 := by
  constructor
  · rintro ⟨n, hn⟩
    match n, hn with
    | 2, hn => exact .inl hn
    | 3, hn => exact .inr (.inl hn)
    | 4, hn => exact hn.elim
    | 5, hn => rcases hn.1 with h | h <;> cases h
    | 6, hn => exact .inr (.inr (.inl hn))
    | 7, hn => exact .inr (.inr (.inr hn))
    | 8, hn => exact absurd List.Pairwise.nil hn
  · rintro (h | h | h | h) <;> exact ⟨_, h⟩

/-- SAMPLE passes `validate` exactly where it fails no check of 40_command.md R123. -/
theorem validate_sample {s : State} {x y : Nat} :
    validate s.params s.regs (.sample x y) = none ↔ ¬∃ n, CheckFails s (.sample x y) n := by
  have source : ReadsSource (.sample x y) := (needsSource_iff _).1 rfl
  have v2 : CheckFails s (.sample x y) 2 ↔ sourceInvalid s.regs = true := by
    simp [CheckFails, source, sourceInvalid_iff]
  have v3 : CheckFails s (.sample x y) 3 ↔ ¬pitchOk s.regs = true := by
    simp only [CheckFails, source, true_and, pitchOk_iff]
  have v6 : CheckFails s (.sample x y) 6 ↔ coordsOutside s.regs (.sample x y) = true := by
    change (∃ a b, Instr.sample x y = .sample a b ∧ (s.regs.width ≤ a ∨ s.regs.height ≤ b)) ↔ _
    simp [coordsOutside]
  have v7 : CheckFails s (.sample x y) 7 ↔ ¬(srcRegion s.regs).base + (srcRegion s.regs).size ≤ s.params.memSize := by
    simp [CheckFails, checkedIntervals, writeIntervals, srcInterval, srcRegion, Regs.base, Regs.pitch, Regs.height]
  rw [validate_eq_none, checkFails_sample, v2, v3, v6, v7]
  simp [needsSource, configUnsupported, usesLineBuffers, checkedRegions, readRegions, writeRegions, separateRegions,
    anyOverlap, and_assoc]

/-! ## A race -/

/-- Settling a race that happened: free values in the write regions, and in RESULT after a SAMPLE that passed its
checks and no other command. -/
theorem settleRace_raced {i : Instr} {s t : State} (hr : s.raced = true) :
    ∃ v k m, settleRace i s t = { t with raced := false, regs := { t.regs with result := v }, mem := m, fresh := k } ∧
      Mem.Via (InRegions (writeRegions s.regs i)) t.mem m ∧
      ((∃ x y n, i = .sample x y ∧ validate s.params s.regs i = none ∧ v = freeResult n) ∨
        ((∀ x y, i = .sample x y → validate s.params s.regs i ≠ none) ∧ v = t.regs.result)) := by
  obtain ⟨m, n, h, hv⟩ := scramble_other (commandWrites s i) { t with raced := false }
  have hw : Mem.Via (InRegions (writeRegions s.regs i)) t.mem m :=
    hv.mono fun a ha => (inRegions_commandWrites.1 ha).1
  simp only [settleRace, hr, if_true, h]
  split
  · rename_i x y hn
    exact ⟨_, _, m, rfl, hw, .inl ⟨x, y, _, rfl, hn, rfl⟩⟩
  · rename_i hother
    exact ⟨_, n, m, rfl, hw, .inr ⟨hother, rfl⟩⟩

theorem freeResult_lt (n : Nat) : (freeResult n).toNat < 2 ^ 24 := by
  simp only [freeResult, BitVec.toNat_setWidth]
  omega

/-! ## The host's accesses -/

/-- While the engine is idle a host write of a byte changes that byte alone. -/
theorem hostMemWrite_idle {s : State} {a : Word} (ha : a.toNat < s.params.memSize) (hb : s.status.busy = false)
    (v : Byte) : hostMemWrite a v s = .next { s with mem := Mem.write s.mem a.toNat v } := by
  simp [hostMemWrite, ha, runningReads, runningWrites, hb, anyHas, noteRace]

/-- While the engine is idle a host read answers with the byte and changes nothing else. -/
theorem hostMemRead_idle {s : State} {a : Word} (ha : a.toNat < s.params.memSize) (hb : s.status.busy = false) :
    hostMemRead a s = .next { s with readData := (Mem.read s.mem a.toNat).setWidth 32 } := by
  simp [hostMemRead, ha, runningWrites, hb, anyHas]

theorem portAccessOk_eq_false {o : BitVec 11} {w : AccessWidth} (h : w ≠ .word ∨ o.toNat % 4 ≠ 0) :
    portAccessOk o w = false := by
  rw [portAccessOk, Bool.and_eq_false_iff]
  exact h.imp beq_false_of_ne beq_false_of_ne

end Sys2Proof.Machine

namespace Sys2Proof.Proofs

open Sys2Proof.Machine

/-- Settles O50: a race writes free values where the command may write, and in RESULT after a SAMPLE that failed no
check. -/
theorem aRaceStaysInTheWriteRegions : Obligations.ARaceStaysInTheWriteRegions := by
  intro s t i hb hd hr he
  obtain ⟨v, k, m, hu, hm, hv⟩ := settleRace_raced (i := i) (t := t) hr
  have hstep : step (s.queue .engineTurn) = .next (settleRace i s t) := by
    simp [hostStep, engineStep_busy hb, runAccepted_next hd he]
  rw [hu] at hstep
  have outside : ∀ a, (∀ g ∈ writeIntervals s.regs i, ¬(g.1 ≤ a ∧ a < g.1 + g.2)) → Mem.read m a = Mem.read t.mem a :=
    fun a ha => hm.read_outside fun hin => by
      obtain ⟨g, hg, hga⟩ := inRegions_writeRegions.1 hin
      exact ha g hg hga
  refine ⟨_, hstep, rfl, rfl, rfl, ?_⟩
  obtain ⟨x, y, n, rfl, hpass, rfl⟩ | ⟨hother, rfl⟩ := hv
  · exact ⟨fun hns => absurd rfl (hns x y), fun hfails => absurd hfails (validate_sample.1 hpass),
      fun _ _ _ _ => freeResult_lt n, outside⟩
  · refine ⟨fun _ => rfl, fun _ => rfl, fun x y hi hpass => ?_, outside⟩
    subst hi
    exact absurd (validate_sample.2 (not_exists.2 hpass)) (hother x y rfl)

/-- Settles O51: past `MEM_SIZE` both accesses fault; below it the write changes one byte and the read finds it. -/
theorem hostMemoryIsPlainRam : Obligations.HostMemoryIsPlainRam := by
  intro s a v
  refine ⟨fun ha => ?_, fun ha hb => ?_⟩
  · simp [hostStep, hostMemWrite, hostMemRead, Nat.not_lt.2 ha]
  · refine ⟨_, hostMemWrite_idle ha hb v, rfl, ?_, fun b hne => Mem.read_write_ne s.mem v hne⟩
    have := hostMemRead_idle (s := { s with mem := Mem.write s.mem a.toNat v }) ha hb
    rwa [Mem.read_write_same] at this

/-- Settles O52: the port looks at the width and the alignment before anything else. -/
theorem badPortAccessesAreRefused : Obligations.BadPortAccessesAreRefused := by
  intro s o w v h
  simp [hostStep, hostRegWrite, hostRegRead, portAccessOk_eq_false h]

end Sys2Proof.Proofs
end

section
/-! Two runs of one command (20_memory.md R73): what a body leaves is fixed by the bytes it reads, since two runs that
agree on those bytes write the same values to the same addresses. `FixedBy` says so of a body and is carried through
sequences, loops and rows of the packer. -/

namespace Sys2Proof.Machine

open Sys2Proof.Config (Params)

/-! ## Two works that agree -/

/-- Two works that read the same at every address of `P` and hold the same line buffers for every channel of `C`. -/
structure Agree (C : Chan → Prop) (P : Nat → Prop) (w w' : Work) : Prop where
  byte : ∀ a, P a → Mem.read w'.mem a = Mem.read w.mem a
  line : ∀ c, C c → w'.eng.chan c = w.eng.chan c

/-- What `f` leaves at the addresses of `W` is fixed by the bytes of `P` and the line buffers of `C`: two runs that
agree on those, and on whatever else, still agree on all of that and on `W` too. -/
def FixedBy (C : Chan → Prop) (P W : Nat → Prop) (f : Work → Work) : Prop :=
  ∀ ⦃Q : Nat → Prop⦄ ⦃w w' : Work⦄, (∀ a, P a → Q a) → Agree C Q w w' →
    Agree C (fun a => Q a ∨ W a) (f w) (f w')

/-- No channel: the line buffers of the two runs may differ. -/
abbrev noLines : Chan → Prop := fun _ => False

/-- No address. -/
abbrev nowhere : Nat → Prop := fun _ => False

namespace Agree

variable {C D : Chan → Prop} {P Q : Nat → Prop} {w w' : Work}

theorem mono (h : Agree C P w w') (hc : ∀ c, D c → C c) (hp : ∀ a, Q a → P a) : Agree D Q w w' :=
  ⟨fun a ha => h.byte a (hp a ha), fun c hcd => h.line c (hc c hcd)⟩

theorem bytes (h : Agree C P w w') (hp : ∀ a, Q a → P a) : Agree C Q w w' := h.mono (fun _ => id) hp

/-- Two runs that write one value at one address agree there too. -/
theorem write (h : Agree C P w w') (a : Nat) (v : Byte) :
    Agree C (fun b => P b ∨ b = a) (w.write a v) (w'.write a v) where
  byte b hb := by
    simp only [work_write_mem, Mem.read_write]
    split
    · rfl
    · rename_i hne; exact h.byte b (hb.resolve_right hne)
  line := h.line

theorem writeBgr (h : Agree C P w w') (a : Nat) (q : Rgb) :
    Agree C P (Machine.writeBgr a q w) (Machine.writeBgr a q w') :=
  (((h.write _ _).write _ _).write _ _).bytes fun _ hb => .inl (.inl (.inl hb))

/-- Where the packer and the cursor stand shows in no byte and no line buffer. -/
theorem standing (h : Agree C P w w') (a a' : Byte) (n n' d d' : Nat) (k k' : Cursor) :
    Agree C P { w with eng := { w.eng with acc := a, nb := n, addr := d, cursor := k } }
      { w' with eng := { w'.eng with acc := a', nb := n', addr := d', cursor := k' } } :=
  ⟨h.byte, fun c hc => by cases c <;> exact h.line _ hc⟩

theorem atPlane (h : Agree C P w w') (i : Nat) : Agree C P (w.atPlane i) (w'.atPlane i) := h.standing ..
theorem atRow (h : Agree C P w w') (i : Nat) : Agree C P (w.atRow i) (w'.atRow i) := h.standing ..
theorem atCol (h : Agree C P w w') (i : Nat) : Agree C P (w.atCol i) (w'.atCol i) := h.standing ..
theorem atSwap (h : Agree C P w w') (i : Nat) : Agree C P (w.atSwap i) (w'.atSwap i) := h.standing ..

/-- One change of a channel's line buffers in both runs. -/
theorem onChan (h : Agree C P w w') (c : Chan) (f : Channel → Channel) :
    Agree C P (Machine.onChan c f w) (Machine.onChan c f w') where
  byte := h.byte
  line d hd := by
    simp only [onChan_chan]
    split
    · rename_i hdc; subst hdc; rw [h.line d hd]
    · exact h.line d hd

theorem rowStart (h : Agree C P w w') (p : Params) (c : Chan) :
    Agree C P (Machine.rowStart p c w) (Machine.rowStart p c w') := h.onChan c _

theorem diffuse (h : Agree C P w w') (c : Chan) (x : Nat) (e : Int) :
    Agree C P (Machine.diffuse c x e w) (Machine.diffuse c x e w') := h.onChan c _

/-- `DitherInit` makes the line buffers of a channel the same, whatever they held (43_dither.md R190). -/
theorem ditherInit (h : Agree C P w w') (p : Params) (c : Chan) :
    Agree (fun d => C d ∨ d = c) P (Machine.ditherInit p c w) (Machine.ditherInit p c w') where
  byte := h.byte
  line d hd := by
    simp only [Machine.ditherInit, onChan_chan]
    split
    · rfl
    · rename_i hne; exact h.line d (hd.resolve_right hne)

theorem carried (h : Agree C P w w') {c : Chan} (hc : C c) (x : Nat) :
    Machine.carried c x w' = Machine.carried c x w := by rw [Machine.carried, h.line c hc]; rfl

end Agree

/-! ## Bodies in sequence and in loops -/

namespace FixedBy

variable {C : Chan → Prop} {P P' W W' : Nat → Prop} {f g : Work → Work}

theorem mono (h : FixedBy C P W f) (hp : ∀ a, P a → P' a) (hw : ∀ a, W' a → P' a ∨ W a) : FixedBy C P' W' f :=
  fun _ _ _ hq ha => (h (fun a hpa => hq a (hp a hpa)) ha).bytes fun a hqa =>
    hqa.elim .inl fun hwa => (hw a hwa).imp_left (hq a)

protected theorem id : FixedBy C P nowhere id := fun _ _ _ _ ha => ha.bytes fun _ h => h.resolve_right id

/-- The second body may read what the first one wrote. -/
theorem comp (hf : FixedBy C P W f) (hg : FixedBy C (fun a => P a ∨ W a) W' g) :
    FixedBy C P (fun a => W a ∨ W' a) (fun w => g (f w)) :=
  fun _ _ _ hq ha => (hg (fun a h => h.imp_left (hq a)) (hf hq ha)).bytes fun _ h => or_assoc.2 h

theorem loop {n : Nat} {W : Nat → Nat → Prop} {body : Nat → Work → Work}
    (h : ∀ i, i < n → FixedBy C P (W i) (body i)) :
    FixedBy C P (fun a => ∃ i, i < n ∧ W i a) (forUpto n body) := by
  induction n with
  | zero => exact fun _ _ _ _ ha => ha.bytes fun _ hb => hb.resolve_right (by simp)
  | succ n ih =>
    intro Q w w' hq ha
    have hn := h n (Nat.lt_succ_self n) (fun a hp => .inl (hq a hp))
      (ih (fun i hi => h i (Nat.lt_succ_of_lt hi)) hq ha)
    refine hn.bytes fun a hb => ?_
    rcases hb with hb | ⟨i, hi, hb⟩
    · exact .inl (.inl hb)
    · rcases Nat.lt_succ_iff_lt_or_eq.1 hi with hi | rfl
      · exact .inl (.inr ⟨i, hi, hb⟩)
      · exact .inr hb

section loops

variable {n : Nat} {W : Nat → Nat → Prop} {body : Nat → Work → Work}

theorem planes (h : ∀ i, i < n → FixedBy C P (W i) (body i)) :
    FixedBy C P (fun a => ∃ i, i < n ∧ W i a) (forPlanes n body) :=
  loop fun i hi _ _ _ hq ha => h i hi hq (ha.atPlane i)

theorem rows (h : ∀ i, i < n → FixedBy C P (W i) (body i)) :
    FixedBy C P (fun a => ∃ i, i < n ∧ W i a) (forRows n body) :=
  loop fun i hi _ _ _ hq ha => h i hi hq (ha.atRow i)

theorem cols (h : ∀ i, i < n → FixedBy C P (W i) (body i)) :
    FixedBy C P (fun a => ∃ i, i < n ∧ W i a) (forCols n body) :=
  loop fun i hi _ _ _ hq ha => h i hi hq (ha.atCol i)

theorem swaps (h : ∀ i, i < n → FixedBy C P (W i) (body i)) :
    FixedBy C P (fun a => ∃ i, i < n ∧ W i a) (forSwaps n body) :=
  loop fun i hi _ _ _ hq ha => h i hi hq (ha.atSwap i)

end loops

/-- What two runs agree on they agree on still. -/
theorem keep (h : FixedBy C P W f) : FixedBy C P nowhere f := h.mono (fun _ => id) fun _ h => h.elim

/-- A write of a value that the bytes of `P` fix. -/
theorem write {a : Nat} {v : Work → Byte}
    (hv : ∀ w w', Agree C P w w' → v w' = v w) : FixedBy C P (· = a) fun w => w.write a (v w) := by
  intro Q w w' hq ha
  simp only [hv w w' (ha.bytes hq)]
  exact ha.write a (v w)

/-- An exchange of two bytes of `P`. -/
theorem swapBytes {a c : Nat} (k : Byte → Byte) (ha : P a) (hc : P c) :
    FixedBy C P nowhere fun w => w.swapBytes k a c := by
  intro Q w w' hq h
  unfold Work.swapBytes
  simp only [work_read_eq, h.byte a (hq a ha), h.byte c (hq c hc)]
  exact ((h.write a _).write c _).bytes fun _ hb => .inl (.inl (hb.resolve_right id))

end FixedBy

/-! ## Reads that the source fixes -/

variable {C : Chan → Prop} {P : Nat → Prop}

theorem getNib_congr {m m' : Mem} {row x : Nat} (h : Mem.read m' (row + x / 2) = Mem.read m (row + x / 2)) :
    getNib m' row x = getNib m row x := by simp only [getNib, h]

/-- A pixel of the image is fixed by the bytes of region SRC (41_sampler.md R140 to R145). -/
theorem sample_congr {r : Regs} {m m' : Mem} {x y : Nat} (hp : pitchOk r = true) (hx : x < r.width) (hy : y < r.height)
    (h : ∀ a, (srcRegion r).Has a → Mem.read m' a = Mem.read m a) : sample r m' x y = sample r m x y := by
  have byte : ∀ k, k < r.pitch → Mem.read m' (imageRowAddr r y + k) = Mem.read m (imageRowAddr r y + k) :=
    fun k hk => h _ (srcRegion_has hy hk)
  cases hd : bppOf r.srcBpp with
  | none => simp only [sample, hd]
  | some d =>
    have hw := pitchOk_holds_row hp hd
    cases d <;> simp only [sample, hd, Bpp.bits] at hw ⊢
    case b1 => simp only [sample1, byte (x / 8) (by omega)]
    case b4 => simp only [sample4, getNib_congr (byte (x / 2) (by omega))]
    case b8 => simp only [sample8, byte x (by omega)]
    case b24 =>
      simp only [sampleBgr, Nat.add_assoc, byte (3 * x) (by omega), byte (3 * x + 1) (by omega),
        byte (3 * x + 2) (by omega)]
    case b32 =>
      simp only [sampleBgr, Nat.add_assoc, byte (4 * x) (by omega), byte (4 * x + 1) (by omega),
        byte (4 * x + 2) (by omega)]

/-! ## Transforms in place -/

/-- A nibble of a byte on which the runs agree takes one value in both. -/
theorem Agree.setNib {w w' : Work} (h : Agree C P w w') {row x : Nat} (hr : P (row + x / 2)) (v : BitVec 4) :
    Agree C P (Machine.setNib w row x v) (Machine.setNib w' row x v) := by
  unfold Machine.setNib
  simp only [work_read_eq, h.byte _ hr]
  exact (h.write _ _).bytes fun _ => .inl

theorem flipRows_fixed {base height pitch : Nat} (h : ∀ y k, y < height → k < pitch → P (base + y * pitch + k)) :
    FixedBy C P nowhere (flipRows base height pitch) :=
  (FixedBy.swaps fun _ hi => (FixedBy.cols fun _ hk =>
    FixedBy.swapBytes id (h _ _ (by omega) hk) (h _ _ (by omega) hk)).keep).keep

theorem mirrorRow1_fixed {nb row : Nat} (h : ∀ k, k < nb → P (row + k)) : FixedBy C P nowhere (mirrorRow1 nb row) := by
  have pairs : FixedBy C P nowhere
      (forCols (nb / 2) fun k w => w.swapBytes rev8 (row + k) (row + (nb - 1 - k))) :=
    (FixedBy.cols fun k hk => FixedBy.swapBytes rev8 (h _ (by omega)) (h _ (by omega))).keep
  unfold mirrorRow1
  by_cases hodd : nb % 2 = 1
  · simp only [hodd, if_true]
    have middle : FixedBy C (fun a => P a ∨ nowhere a) (· = row + nb / 2)
        fun w => w.write (row + nb / 2) (rev8 (w.read (row + nb / 2))) :=
      FixedBy.write fun w w' hw => by simp only [work_read_eq, hw.byte _ (.inl (h (nb / 2) (by omega)))]
    exact (pairs.comp middle).keep
  · simp only [hodd, if_false]
    exact pairs

theorem mirrorRow4_fixed {width row : Nat} (h : ∀ x, x < width → P (row + x / 2)) :
    FixedBy C P nowhere (mirrorRow4 width row) := by
  refine (FixedBy.cols (W := fun _ => nowhere) fun x hx Q w w' hq ha => ?_).keep
  have left := hq _ (h x (by omega))
  have right := hq _ (h (width - 1 - x) (by omega))
  simp only [getNib_congr (ha.byte _ left), getNib_congr (ha.byte _ right)]
  exact ((ha.setNib left _).setNib right _).bytes fun _ hb => hb.resolve_right id

theorem mirrorRowBytes_fixed {n width row : Nat} (h : ∀ x j, x < width → j < n → P (row + n * x + j)) :
    FixedBy C P nowhere (mirrorRowBytes n width row) :=
  (FixedBy.cols fun _ hx => (FixedBy.loop fun _ hj =>
    FixedBy.swapBytes id (h _ _ (by omega) hj) (h _ _ (by omega) hj)).keep).keep

/-- The mirror of a buffer whose pitch holds its pixels is fixed by the bytes of its rows. -/
theorem mirrorRows_fixed {d : Bpp} {base width height pitch : Nat} (hp : width * d.bits ≤ 8 * pitch)
    (h : ∀ y k, y < height → k < pitch → P (base + y * pitch + k)) :
    FixedBy C P nowhere (mirrorRows d base width height pitch) := by
  refine (FixedBy.rows (W := fun _ => nowhere) fun y hy => ?_).keep
  cases d with
  | b1 => exact mirrorRow1_fixed fun k hk => h _ _ hy (by simp only [Bpp.bits] at hp; omega)
  | b4 => exact mirrorRow4_fixed fun x hx => h _ _ hy (by simp only [Bpp.bits] at hp; omega)
  | b8 => exact mirrorRowBytes_fixed (pixel_byte_in_row hp fun k => h y k hy)
  | b24 => exact mirrorRowBytes_fixed (pixel_byte_in_row hp fun k => h y k hy)
  | b32 => exact mirrorRowBytes_fixed (pixel_byte_in_row hp fun k => h y k hy)

theorem invertWork_fixed (p : Params) (r : Regs) : FixedBy C (srcRegion r).Has nowhere (invertWork p r) :=
  (FixedBy.loop fun k hk => FixedBy.write fun w w' hw => by
    simp only [work_read_eq, hw.byte (r.base + k) ⟨Nat.le_add_right _ _, Nat.add_lt_add_left hk _⟩]).keep

theorem vflipWork_fixed (p : Params) (r : Regs) : FixedBy C (srcRegion r).Has nowhere (vflipWork p r) :=
  flipRows_fixed fun _ _ hy hk => row_byte_in hy hk

theorem mirrorWork_fixed (p : Params) {r : Regs} (hp : pitchOk r = true) :
    FixedBy C (srcRegion r).Has nowhere (mirrorWork p r) := by
  unfold mirrorWork
  split
  · rename_i d hd
    exact mirrorRows_fixed (pitchOk_holds_row hp hd) fun _ _ hy hk => row_byte_in hy hk
  · exact .id

/-! ## Copies and rotations: every byte of the new buffer is written -/

/-- COPY1 writes all of plane 0. -/
theorem copyWork_fixed (p : Params) {r : Regs} (hp : pitchOk r = true) (hd : bppOf r.srcBpp = some .b1) :
    FixedBy C (srcRegion r).Has (plane0Region r (destPitch r.width 1)).Has (copyWork p r) := by
  have hw := pitchOk_holds_row hp hd
  have row : ∀ y, y < r.height → FixedBy C (srcRegion r).Has
      (fun a => ∃ k, k < destPitch r.width 1 ∧ a = r.dst0Base.toNat + y * destPitch r.width 1 + k) (copyRow r y) := by
    intro y hy
    unfold copyRow
    refine FixedBy.cols fun k hk => FixedBy.write fun w w' h => ?_
    have hk' : k < r.pitch := by rw [destPitch_eq] at hk; simp only [Bpp.bits] at hw; omega
    simp only [work_read_eq, h.byte _ (srcRegion_has hy hk')]
  exact (FixedBy.rows row).mono (fun _ => id) fun a ha => .inr (region_has_iff_row.1 ha)

theorem newNib_congr {r : Regs} {m m' : Mem} {y x : Nat} (hp : pitchOk r = true) (hd : bppOf r.srcBpp = some .b4)
    (hy : y < r.width) (h : ∀ a, (srcRegion r).Has a → Mem.read m' a = Mem.read m a) :
    newNib r m' y x = newNib r m y x := by
  have hw := pitchOk_holds_row hp hd
  unfold newNib oldNib
  split
  · exact getNib_congr (h _ (srcRegion_has (by omega) (by simp only [Bpp.bits] at hw; omega)))
  · rfl

/-- ROT90 writes all of region SCR. -/
theorem rot90Work_fixed (p : Params) {r : Regs} (hp : pitchOk r = true) (hd : bppOf r.srcBpp = some .b4) :
    FixedBy C (srcRegion r).Has (scratchRegion r).Has (rot90Work p r) := by
  refine (FixedBy.rows fun y hy => FixedBy.cols fun k hk => FixedBy.write fun w w' h => ?_).mono (fun _ => id)
    fun a ha => .inr ?_
  · simp only [newNib_congr hp hd hy h.byte]
  · obtain ⟨y, hy, k, hk, rfl⟩ := region_has_iff_row.1 ha
    exact ⟨storageRow r.topdown r.width y, storageRow_lt hy, k, hk, by rw [storageRow_storageRow hy]⟩

/-- ROT270 writes all of region SCR, then flips and mirrors it in place. -/
theorem rot270Work_fixed (p : Params) {r : Regs} (hp : pitchOk r = true) (hd : bppOf r.srcBpp = some .b4) :
    FixedBy C (srcRegion r).Has (scratchRegion r).Has (rot270Work p r) := by
  have flipped := (rot90Work_fixed (C := C) p hp hd).comp
    (flipRows_fixed (height := r.width) fun y k hy hk => .inr (row_byte_in hy hk))
  have mirrored : FixedBy C (fun a => (srcRegion r).Has a ∨ (scratchRegion r).Has a ∨ nowhere a) nowhere
      (mirrorRows .b4 r.scratchBase.toNat r.height r.width (rotatedPitch r)) :=
    mirrorRows_fixed (le_minPitch r.height 4) fun y k hy hk => .inr (.inl (row_byte_in hy hk))
  exact (flipped.comp mirrored).mono (fun _ => id) fun _ h => .inr (.inl (.inl h))

end Sys2Proof.Machine
end

section
/-! Two runs of the commands that pack planes or dither: within a row the two runs hold the same packer and the same
line buffers, whatever they held before the command (10_state.md R42, R43). -/

namespace Sys2Proof.Machine

open Sys2Proof.Config (Params)

/-- Two loops whose rounds carry a relation one further end in it. -/
theorem forUpto_rel_induction {α β : Type} {n : Nat} {f : Nat → α → α} {g : Nat → β → β} {x : α} {y : β}
    (R : Nat → α → β → Prop) (h0 : R 0 x y) (hs : ∀ i a b, i < n → R i a b → R (i + 1) (f i a) (g i b)) :
    R n (forUpto n f x) (forUpto n g y) := by
  induction n with
  | zero => exact h0
  | succ n ih => exact hs n _ _ (Nat.lt_succ_self n) (ih fun i a b hi => hs i a b (Nat.lt_succ_of_lt hi))

/-! ## A row of the packer -/

/-- Two runs `k` bits into a row that starts at `start`: they agree on the bytes written so far too, and their packers
hold the same (44_packer.md R222). -/
structure InRow (C : Chan → Prop) (P : Nat → Prop) (start k : Nat) (w w' : Work) : Prop where
  agree : Agree C (fun a => P a ∨ ∃ j, j < k / 8 ∧ a = start + j) w w'
  place : PackerAt start k w
  acc : w'.eng.acc = w.eng.acc
  nb : w'.eng.nb = w.eng.nb
  addr : w'.eng.addr = w.eng.addr

variable {C : Chan → Prop} {P : Nat → Prop} {start k : Nat} {w w' : Work}

/-- Two runs whose packers stand at one address and write one value agree there too. -/
theorem Agree.packFlush (h : Agree C P w w') (haddr : w'.eng.addr = w.eng.addr) (v : Byte) (n : Nat) :
    Agree C (fun a => P a ∨ a = w.eng.addr) (Machine.packFlush v n w) (Machine.packFlush v n w') := by
  have hw := h.write w.eng.addr v
  unfold Machine.packFlush
  rw [haddr]
  exact hw.standing ..

namespace InRow

theorem of_packStart (h : Agree C P w w') (base dp y : Nat) :
    InRow C P (base + y * dp) 0 (packStart base dp y w) (packStart base dp y w') where
  agree := (h.standing ..).bytes fun _ ha => ha.resolve_right (by simp)
  place := packStart_at base dp y w
  acc := rfl
  nb := rfl
  addr := rfl

theorem atCol (h : InRow C P start k w w') (x : Nat) : InRow C P start k (w.atCol x) (w'.atCol x) :=
  ⟨h.agree.atCol x, ⟨h.place.addr, h.place.nb⟩, h.acc, h.nb, h.addr⟩

theorem diffuse (h : InRow C P start k w w') (c : Chan) (x : Nat) (e : Int) :
    InRow C P start k (Machine.diffuse c x e w) (Machine.diffuse c x e w') where
  agree := h.agree.diffuse c x e
  place := ⟨by simpa [Machine.diffuse] using h.place.addr, by simpa [Machine.diffuse] using h.place.nb⟩
  acc := by simpa [Machine.diffuse] using h.acc
  nb := by simpa [Machine.diffuse] using h.nb
  addr := by simpa [Machine.diffuse] using h.addr

/-- The same bits move both packers on together. -/
theorem packPut (h : InRow C P start k w w') {n : Nat} (hn : k % 8 + n ≤ 8) (h0 : 0 < n) (bits : Nat) :
    InRow C P start (k + n) (Machine.packPut bits n w) (Machine.packPut bits n w') := by
  have hplace := packPut_at (bits := bits) h.place hn h0
  have hnb := h.place.nb
  rcases packPut_cases bits n w with ⟨h8, he⟩ | ⟨h8, he⟩ <;>
    rcases packPut_cases bits n w' with ⟨h8', he'⟩ | ⟨h8', he'⟩ <;> rw [h.nb] at h8'
  · refine ⟨?_, hplace, by simp [he, he'], by simp [he, he'], by simp [he, he', h.addr]⟩
    rw [he, he', h.acc]
    refine (h.agree.packFlush h.addr _ 1).bytes fun a ha => ?_
    rw [h.place.addr]
    rcases ha with ha | ⟨j, hj, rfl⟩
    · exact .inl (.inl ha)
    · by_cases hjk : j < k / 8
      · exact .inl (.inr ⟨j, hjk, rfl⟩)
      · exact .inr (by omega)
  · exact absurd h8 h8'
  · exact absurd h8' h8
  · refine ⟨?_, hplace, by simp [he, he', h.acc], by simp [he, he', h.nb], by simp [he, he', h.addr]⟩
    rw [he, he']
    have hsame : (k + n) / 8 = k / 8 := by omega
    rw [hsame]
    exact h.agree.standing ..

/-- The end of the row writes its last, partial byte. -/
theorem packEnd (h : InRow C P start k w w') :
    Agree C (fun a => P a ∨ ∃ j, j < ceilDiv k 8 ∧ a = start + j) (Machine.packEnd w) (Machine.packEnd w') := by
  have hnb := h.place.nb
  have haddr := h.place.addr
  unfold Machine.packEnd
  rw [h.nb, h.acc]
  split
  · refine (h.agree.packFlush h.addr _ 0).bytes fun a ha => ?_
    rw [haddr]
    rcases ha with ha | ⟨j, hj, rfl⟩
    · exact .inl (.inl ha)
    · by_cases hjk : j < k / 8
      · exact .inl (.inr ⟨j, hjk, rfl⟩)
      · rw [ceilDiv] at hj
        exact .inr (by omega)
  · refine h.agree.bytes fun a ha => ha.imp_right fun ⟨j, hj, hja⟩ => ⟨j, ?_, hja⟩
    rw [ceilDiv] at hj
    omega

/-- A row of `width` pixels, each put as `bps` bits that the two runs share. -/
theorem row {width bps : Nat} (hb : bps = 1 ∨ bps = 2) {body : Nat → Work → Work}
    (hbody : ∀ x i u u', x < width → InRow C P start i u u' → ∃ bits v v', InRow C P start i v v' ∧
      body x u = Machine.packPut bits bps v ∧ body x u' = Machine.packPut bits bps v')
    (h : InRow C P start 0 w w') :
    Agree C (fun a => P a ∨ ∃ j, j < ceilDiv (width * bps) 8 ∧ a = start + j)
      (Machine.packEnd (forCols width body w)) (Machine.packEnd (forCols width body w')) := by
  refine packEnd (forUpto_rel_induction (fun x => InRow C P start (x * bps)) (by simpa using h) ?_)
  intro x u u' hx hu
  obtain ⟨bits, v, v', hv, he, he'⟩ := hbody x _ _ _ hx (hu.atCol x)
  rw [he, he', Nat.add_mul, Nat.one_mul]
  exact hv.packPut (by rcases hb with rfl | rfl <;> omega) (by rcases hb with rfl | rfl <;> omega) bits

end InRow

/-! ## PACK -/

theorem packRow_fixed {m : Mode} {r : Regs} {p y : Nat} (hp : pitchOk r = true) (hy : y < r.height) :
    FixedBy C (srcRegion r).Has
      (fun a => ∃ k, k < destPitch r.width (planeShape m).2 ∧
        a = planeBase r p + y * destPitch r.width (planeShape m).2 + k) (packRow m r p y) := by
  intro Q w w' hq ha
  refine InRow.row (by cases m <;> decide) (fun x i u u' hx hu => ?_) (InRow.of_packStart ha _ _ y)
  have hsame := sample_congr hp hx hy fun a hsrc => hu.agree.byte a (.inl (hq a hsrc))
  exact ⟨_, u, u', hu, rfl, by rw [packPixel, hsame]⟩

/-- PACK writes all of its planes. -/
theorem packWork_fixed {m : Mode} (p : Params) {r : Regs} (hm : modeOf r.mode = some m) (hp : pitchOk r = true) :
    FixedBy C (srcRegion r).Has (InRegions (packPlanes r)) (packWork m p r) :=
  (FixedBy.planes fun _ _ => FixedBy.rows fun _ hy => packRow_fixed hp hy).mono (fun _ => id)
    fun _ ha => .inr ((inRegions_packPlanes hm).1 ha)

/-! ## DGREY -/

theorem dgreyRow_fixed (p : Params) {r : Regs} {y : Nat} (hc : C .c0) (hp : pitchOk r = true) (hy : y < r.height) :
    FixedBy C (srcRegion r).Has
      (fun a => ∃ k, k < destPitch r.width 1 ∧ a = r.dst0Base.toNat + y * destPitch r.width 1 + k)
      (dgreyRow p r y) := by
  intro Q w w' hq ha
  refine InRow.row (width := r.width) (bps := 1) (body := dgreyPixel r y) (.inl rfl) (fun x i u u' hx hu => ?_)
    (InRow.of_packStart (ha.rowStart p .c0) _ _ y)
  have hsame := sample_congr hp hx hy fun a hsrc => hu.agree.byte a (.inl (hq a hsrc))
  exact ⟨_, _, _, hu.diffuse .c0 x _, rfl, by simp only [dgreyPixel, hsame, hu.agree.carried hc]⟩

/-- DGREY writes all of plane 0, and starts with line buffers at zero. -/
theorem dgreyWork_fixed (p : Params) {r : Regs} (hp : pitchOk r = true) :
    FixedBy noLines (srcRegion r).Has (plane0Region r (destPitch r.width 1)).Has (dgreyWork p r) := by
  intro Q w w' hq ha
  have rows := FixedBy.rows fun y hy => dgreyRow_fixed (C := fun c => noLines c ∨ c = .c0) p (.inr rfl) hp hy
  exact (rows hq (ha.ditherInit p .c0)).mono (fun _ => False.elim) fun a h => h.imp_right region_has_iff_row.1

/-! ## DCOLOR -/

theorem dcolorPixel_fixed {m : Mode} {r : Regs} {x y : Nat} (hc : ∀ c, C c) (hp : pitchOk r = true)
    (hx : x < r.width) (hy : y < r.height) : FixedBy C (srcRegion r).Has nowhere (dcolorPixel m r y x) := by
  intro Q w w' hq ha
  have hsame := sample_congr hp hx hy fun a hsrc => ha.byte a (hq a hsrc)
  simp only [dcolorPixel, hsame, ha.carried (hc _)]
  exact ((((ha.diffuse .c0 x _).diffuse .c1 x _).diffuse .c2 x _).writeBgr _ _).bytes fun a h => h.resolve_right id

theorem dcolorRow_fixed {m : Mode} (p : Params) {r : Regs} {y : Nat} (hc : ∀ c, C c) (hp : pitchOk r = true)
    (hy : y < r.height) : FixedBy C (srcRegion r).Has nowhere (dcolorRow m p r y) := by
  intro Q w w' hq ha
  have cols := (FixedBy.cols fun x hx => dcolorPixel_fixed (m := m) hc hp hx hy).keep
  exact cols hq (((ha.rowStart p .c0).rowStart p .c1).rowStart p .c2)

/-- DCOLOR rewrites the source in place, and starts with line buffers at zero. -/
theorem dcolorWork_fixed {m : Mode} (p : Params) {r : Regs} (hp : pitchOk r = true) :
    FixedBy noLines (srcRegion r).Has nowhere (dcolorWork m p r) := by
  intro Q w w' hq ha
  have every : ∀ c, ((noLines c ∨ c = .c0) ∨ c = .c1) ∨ c = .c2 := by rintro (_ | _ | _) <;> simp
  have rows := (FixedBy.rows fun y hy => dcolorRow_fixed (m := m) p every hp hy).keep
  exact (rows hq (((ha.ditherInit p .c0).ditherInit p .c1).ditherInit p .c2)).mono (fun _ => False.elim) fun _ => id

end Sys2Proof.Machine
end

section
/-! Two runs of a whole command (20_memory.md R73): machines that the parameters, the registers, STATUS and the bytes of
the source do not tell apart are not told apart by what the command leaves there or in its write regions. -/

namespace Sys2Proof.Machine

open Sys2Proof.Config (Params)

/-- Two machines with the same parameters, registers and STATUS, and the same bytes at the addresses of `P`. -/
structure Twins (P : Nat → Prop) (s s' : State) : Prop where
  params : s'.params = s.params
  regs : s'.regs = s.regs
  status : s'.status = s.status
  byte : ∀ a, P a → Mem.read s'.mem a = Mem.read s.mem a

/-- The bytes of region SRC, for a command that needs a source (40_command.md R123). -/
def SourceByte (r : Regs) (i : Instr) (a : Nat) : Prop := needsSource i = true ∧ (srcRegion r).Has a

namespace Twins

variable {P Q W : Nat → Prop} {s s' : State}

theorem mono (h : Twins P s s') (hp : ∀ a, Q a → P a) : Twins Q s s' :=
  ⟨h.params, h.regs, h.status, fun a ha => h.byte a (hp a ha)⟩

/-- A body that the bytes of `P` fix, run on both. -/
theorem runWork {body : Params → Regs → Work → Work} (h : Twins P s s')
    (hb : FixedBy noLines P W (body s.params s.regs)) :
    Twins (fun a => P a ∨ W a) (s.runWork body) (s'.runWork body) where
  params := h.params
  regs := h.regs
  status := h.status
  byte := by
    simp only [runWork_mem, h.params, h.regs]
    exact (hb (fun _ => id) ⟨h.byte, fun _ => False.elim⟩).byte

/-- A body that works in place, run on both. -/
theorem runInPlace {body : Params → Regs → Work → Work} (h : Twins P s s')
    (hb : FixedBy noLines P nowhere (body s.params s.regs)) : Twins P (s.runWork body) (s'.runWork body) :=
  (h.runWork hb).mono fun _ => .inl

theorem publishPlanes (h : Twins P s s') (dp np : Nat) :
    Twins P (publishPlanes dp np s) (publishPlanes dp np s') :=
  ⟨h.params, by simp [h.regs], h.status, h.byte⟩

theorem exchangeSource (h : Twins P s s') : Twins P (exchangeSource s) (exchangeSource s') :=
  ⟨h.params, by simp [h.regs], h.status, h.byte⟩

theorem setGeomSkip (h : Twins P s s') : Twins P (setGeomSkip s) (setGeomSkip s') :=
  ⟨h.params, h.regs, by simp [h.status], h.byte⟩

theorem setResult (h : Twins P s s') (v : Word) : Twins P (setResult v s) (setResult v s') :=
  ⟨h.params, by simp [h.regs], h.status, h.byte⟩

theorem complete (h : Twins P s s') : Twins P (complete s) (complete s') :=
  ⟨h.params, h.regs, by simp [h.status], h.byte⟩

theorem raiseError (h : Twins P s s') (hw : s'.cmdWord = s.cmdWord) (e : ErrCode) :
    Twins P (raiseError e s) (raiseError e s') :=
  ⟨h.params, by simp [h.regs, hw], by simp [h.status], h.byte⟩

theorem mirrorEffect (h : Twins (srcRegion s.regs).Has s s') (hp : pitchOk s.regs = true) :
    Twins (srcRegion s.regs).Has (mirrorEffect s) (mirrorEffect s') := by
  unfold Machine.mirrorEffect
  rw [h.regs]
  split
  · exact h.setGeomSkip
  · exact h.runInPlace (mirrorWork_fixed s.params hp)

/-- A rotation by 90 or 270 degrees: the new buffer at 4 bpp, else GEOM_SKIP alone (45_geometry.md R257 to R260). -/
theorem rotation {body : Params → Regs → Work → Work} (h : Twins (srcRegion s.regs).Has s s')
    (hb : bppOf s.regs.srcBpp = some .b4 →
      FixedBy noLines (srcRegion s.regs).Has (scratchRegion s.regs).Has (body s.params s.regs)) :
    Twins (fun a => (srcRegion s.regs).Has a ∨ InRegions (if is4bpp s.regs then [scratchRegion s.regs] else []) a)
      (if is4bpp s.regs then Machine.exchangeSource (s.runWork body) else Machine.setGeomSkip s)
      (if is4bpp s'.regs then Machine.exchangeSource (s'.runWork body) else Machine.setGeomSkip s') := by
  rw [h.regs]
  split
  · rename_i h4
    exact (h.runWork (hb (by simpa [is4bpp] using h4))).exchangeSource.mono fun _ ha => ha.imp_right inRegions_one.1
  · exact h.setGeomSkip.mono fun _ ha => ha.resolve_right (by simp [InRegions])

end Twins

/-- The effect of a command that needs a source, and passed its checks, is fixed by region SRC. -/
theorem effectOf_twins_of_source {i : Instr} {s s' : State} (hn : needsSource i = true)
    (hv : validate s.params s.regs i = none) (h : Twins (srcRegion s.regs).Has s s') :
    Twins (fun a => (srcRegion s.regs).Has a ∨ InRegions (writeRegions s.regs i) a) (effectOf i s) (effectOf i s') := by
  obtain ⟨hsrc, hcfg, -, hxy, -, -⟩ := validate_eq_none.1 hv
  obtain ⟨-, hp⟩ := hsrc hn
  have inPlace : ∀ {t t' : State}, Twins (srcRegion s.regs).Has t t' →
      Twins (fun a => (srcRegion s.regs).Has a ∨ InRegions [srcRegion s.regs] a) t t' :=
    fun ht => ht.mono fun a ha => ha.elim id inRegions_one.1
  have plane : ∀ {body : Params → Regs → Work → Work} {g : Region},
      FixedBy noLines (srcRegion s.regs).Has g.Has (body s.params s.regs) →
      Twins (fun a => (srcRegion s.regs).Has a ∨ InRegions [g] a) (s.runWork body) (s'.runWork body) :=
    fun hb => (h.runWork hb).mono fun a ha => ha.imp_right inRegions_one.1
  cases i with
  | nop => cases hn
  | matchColour r g b => cases hn
  | sample x y =>
    simp only [coordsOutside, Bool.or_eq_false_iff, decide_eq_false_iff_not, Nat.not_le] at hxy
    simp only [effectOf, sampleEffect, h.regs, sample_congr hp hxy.1 hxy.2 h.byte]
    exact (h.setResult _).mono fun a ha => ha.resolve_right (by simp [writeRegions, InRegions])
  | dgrey =>
    simp only [effectOf, dgreyEffect, writeRegions, bpsOf_binary (dgrey_mode hcfg), h.regs]
    exact (plane (dgreyWork_fixed s.params hp)).publishPlanes _ _
  | dcolor =>
    refine inPlace ?_
    simp only [effectOf, dcolorEffect, h.regs]
    split
    · exact (h.runWork (dcolorWork_fixed s.params hp)).mono fun _ => .inl
    · exact h
  | pack =>
    simp only [effectOf, packEffect, h.regs]
    split
    · rename_i m hm
      exact (h.runWork (packWork_fixed s.params hm hp)).publishPlanes _ _
    · rename_i hm
      simp [configUnsupported, hm] at hcfg
  | copy1 =>
    obtain ⟨hm, hd⟩ := copy1_mode hcfg
    simp only [effectOf, copyEffect, writeRegions, bpsOf_binary hm, h.regs]
    exact (plane (copyWork_fixed s.params hp hd)).publishPlanes _ _
  | vflip => exact inPlace (h.runInPlace (vflipWork_fixed s.params s.regs))
  | mirror => exact inPlace (h.mirrorEffect hp)
  | rot180 =>
    have flipped := h.runInPlace (vflipWork_fixed s.params s.regs)
    exact inPlace (Twins.mirrorEffect (s := s.runWork vflipWork) flipped hp)
  | rot90 => exact h.rotation (rot90Work_fixed s.params hp)
  | rot270 => exact h.rotation (rot270Work_fixed s.params hp)
  | invert => exact inPlace (h.runInPlace (invertWork_fixed s.params s.regs))

/-- The effect of a command that passed its checks leaves twins twins, on its write regions too. -/
theorem effectOf_twins {i : Instr} {s s' : State} (hv : validate s.params s.regs i = none)
    (h : Twins (SourceByte s.regs i) s s') :
    Twins (fun a => SourceByte s.regs i a ∨ InRegions (writeRegions s.regs i) a) (effectOf i s) (effectOf i s') := by
  by_cases hn : needsSource i = true
  · exact (effectOf_twins_of_source hn hv (h.mono fun _ ha => ⟨hn, ha⟩)).mono fun _ ha => ha.imp_left And.right
  · cases i with
    | nop => exact h.mono fun _ ha => ha.resolve_right (by simp [writeRegions, InRegions])
    | matchColour r g b =>
      refine Twins.mono (P := SourceByte s.regs (.matchColour r g b)) ?_ fun _ ha =>
        ha.resolve_right (by simp [writeRegions, InRegions])
      simp only [effectOf, matchEffect, h.regs]
      split
      · exact h.setResult _
      · exact h
    | _ => exact absurd rfl hn

/-- A command leaves twins twins; where it passes its checks, on its write regions too (20_memory.md R73). -/
theorem exec_twins {i : Instr} {s s' t t' : State} (h : Twins (SourceByte s.regs i) s s')
    (hw : s'.cmdWord = s.cmdWord) (ht : exec i s = .next t) (ht' : exec i s' = .next t') :
    Twins (SourceByte s.regs i) t t' ∧
      (t.status.err = true ∨ Twins (InRegions (writeRegions s.regs i)) t t') := by
  rw [exec_eq] at ht ht'
  cases hv : validate s.params s.regs i with
  | some e =>
    rw [runCommand_error hv] at ht
    rw [runCommand_error (e := e) (by rw [h.params, h.regs, hv])] at ht'
    cases ht
    cases ht'
    exact ⟨h.raiseError hw e, .inl rfl⟩
  | none =>
    rw [runCommand_pass hv] at ht
    rw [runCommand_pass (by rw [h.params, h.regs, hv])] at ht'
    cases ht
    cases ht'
    have done := (effectOf_twins hv h).complete
    exact ⟨done.mono fun _ => .inl, .inr (done.mono fun _ => .inr)⟩

end Sys2Proof.Machine

namespace Sys2Proof.Proofs

open Sys2Proof.Machine

/-- Settles O24: the two runs are twins on the source at acceptance, so they end as twins on the source and, with no
error, on the write regions. -/
theorem outcomeDependsOnTheSourceAlone : Obligations.OutcomeDependsOnTheSourceAlone := by
  intro i s s' t t' hparams hregs hstatus hword hbytes ht ht'
  have start : Twins (SourceByte s.regs i) s s' :=
    ⟨hparams, hregs, hstatus, fun a ⟨hn, hlo, hhi⟩ => hbytes ((needsSource_iff i).1 hn) a hlo hhi⟩
  obtain ⟨source, written⟩ := exec_twins start hword ht ht'
  refine ⟨source.regs, source.status, fun hr a hlo hhi => source.byte a ⟨(needsSource_iff i).2 hr, hlo, hhi⟩, ?_⟩
  intro _ herr g hg a hlo hhi
  rw [herr] at written
  exact (written.resolve_left Bool.false_ne_true).byte a (inRegions_writeRegions.2 ⟨g, hg, hlo, hhi⟩)

end Sys2Proof.Proofs
end

section
/-! The command word (30_encoding.md R90 to R97): the fields split a word and put it together again, and `decode` is
said once, format by format. A command and its word then name each other, and the rows of the opcode map are the words
of the commands. -/

namespace Sys2Proof

/-! ## Fields -/

@[simp] theorem fieldOp_append (o : BitVec 8) (p : BitVec 24) : fieldOp (o ++ p : Word) = o :=
  (Laws.fields_append o p).1

@[simp] theorem fieldOperand_append (o : BitVec 8) (p : BitVec 24) : fieldOperand (o ++ p : Word) = p :=
  (Laws.fields_append o p).2

@[simp] theorem fieldOp_encode (i : Instr) : fieldOp (encode i) = opcode i := fieldOp_append _ _

@[simp] theorem fieldOperand_encode (i : Instr) : fieldOperand (encode i) = operandBits i := fieldOperand_append _ _

/-- A word is its OP and its OPERAND (30_encoding.md R90). -/
theorem fieldOp_append_fieldOperand (w : Word) : fieldOp w ++ fieldOperand w = w :=
  BitVec.extractLsb'_append_extractLsb'

theorem word_eq_append_iff {w : Word} {o : BitVec 8} {p : BitVec 24} :
    w = o ++ p ↔ fieldOp w = o ∧ fieldOperand w = p := by
  constructor
  · rintro rfl
    exact ⟨fieldOp_append o p, fieldOperand_append o p⟩
  · rintro ⟨rfl, rfl⟩
    exact (fieldOp_append_fieldOperand w).symm

theorem encode_eq_of_fields {i : Instr} {w : Word} (hop : fieldOp w = opcode i)
    (hoperand : fieldOperand w = operandBits i) : encode i = w :=
  (word_eq_append_iff.2 ⟨hop, hoperand⟩).symm

/-- OPERAND of format XY is X and Y (30_encoding.md R91). -/
theorem fieldX_append_fieldY (w : Word) : fieldX w ++ fieldY w = fieldOperand w :=
  BitVec.extractLsb'_append_extractLsb'_eq_extractLsb' rfl

/-- OPERAND of format RGB is R, G and B (30_encoding.md R91). -/
theorem fieldR_append_fieldG_append_fieldB (w : Word) :
    (fieldR w ++ fieldG w : BitVec 16) ++ fieldB w = fieldOperand w := by
  have upper : (fieldR w ++ fieldG w : BitVec 16) = w.extractLsb' 8 16 :=
    BitVec.extractLsb'_append_extractLsb'_eq_extractLsb' rfl
  rw [upper]
  exact BitVec.extractLsb'_append_extractLsb'_eq_extractLsb' rfl

theorem bitVec_append_inj {m n : Nat} {a b : BitVec m} {c d : BitVec n} : a ++ c = b ++ d ↔ a = b ∧ c = d := by
  constructor
  · intro h
    constructor
    · simpa only [BitVec.extractLsb'_append_eq_left] using congrArg (BitVec.extractLsb' n m) h
    · simpa only [BitVec.extractLsb'_append_eq_right] using congrArg (BitVec.extractLsb' 0 n) h
  · rintro ⟨rfl, rfl⟩
    rfl

theorem fieldOp_toNat (w : Word) : (fieldOp w).toNat = w.toNat / 2 ^ 24 := by
  have := w.isLt
  simp only [fieldOp, BitVec.extractLsb'_toNat, Nat.shiftRight_eq_div_pow]
  omega

theorem fieldOp_eq_iff {w : Word} {o : BitVec 8} : fieldOp w = o ↔ w.toNat / 2 ^ 24 = o.toNat := by
  rw [← BitVec.toNat_inj, fieldOp_toNat]

theorem fieldOperand_toNat (w : Word) : (fieldOperand w).toNat = w.toNat % 2 ^ 24 := by
  simp [fieldOperand]

/-! ## Formats -/

/-- A command of format Z: the map of Z-format rows has it at its own OP (30_encoding.md R92). -/
abbrev Instr.IsZ (i : Instr) : Prop := zFormat (opcode i).toNat = some i

/-- A Z-format row holds the Z-format command of that OP. -/
theorem zFormat_eq_some_iff {n : Nat} {i : Instr} : zFormat n = some i ↔ i.IsZ ∧ (opcode i).toNat = n := by
  constructor
  · intro h
    unfold zFormat at h
    split at h <;> cases h <;> exact ⟨rfl, rfl⟩
  · rintro ⟨hz, rfl⟩
    exact hz

/-- The OP values of the Z-format rows (30_encoding.md R92). -/
theorem zFormat_eq_none_iff {n : Nat} :
    zFormat n = none ↔ n ∉ [0x00, 0x10, 0x11, 0x20, 0x21, 0x30, 0x31, 0x32, 0x33, 0x34, 0x35] := by
  unfold zFormat
  split <;> simp_all

theorem Instr.IsZ.operandBits_eq {i : Instr} (h : i.IsZ) : operandBits i = 0 := by
  cases i with
  | sample | matchColour => cases h
  | _ => rfl

theorem Instr.IsZ.wellFormed {i : Instr} (h : i.IsZ) : i.WellFormed := by
  cases i with
  | sample | matchColour => cases h
  | _ => trivial

theorem Instr.IsZ.opcode_ne {i : Instr} (h : i.IsZ) : opcode i ≠ 0x01#8 ∧ opcode i ≠ 0x02#8 := by
  cases i with
  | sample | matchColour => cases h
  | _ => decide

/-! ## The decoder, format by format -/

theorem decode_xy {w : Word} (h : fieldOp w = 0x01#8) :
    decode w = .ok (.sample (fieldX w).toNat (fieldY w).toNat) := by
  simp [decode, h]

theorem decode_rgb {w : Word} (h : fieldOp w = 0x02#8) :
    decode w = .ok (.matchColour (fieldR w).toNat (fieldG w).toNat (fieldB w).toNat) := by
  simp [decode, h]

theorem decode_z {w : Word} {i : Instr} (hz : i.IsZ) (h : fieldOp w = opcode i) :
    decode w =
      if fieldOperand w = 0 then .ok i else .error (.operandNotZero (opcode i) (fieldOperand w)) := by
  obtain ⟨hxy, hrgb⟩ := hz.opcode_ne
  rw [decode, h, if_neg hxy, if_neg hrgb, hz]

theorem decode_reserved {w : Word} (hxy : fieldOp w ≠ 0x01#8) (hrgb : fieldOp w ≠ 0x02#8)
    (h : zFormat (fieldOp w).toNat = none) : decode w = .error (.reservedOp (fieldOp w)) := by
  rw [decode, if_neg hxy, if_neg hrgb, h]

/-- What a word can be that decodes to a command: one of the three formats (30_encoding.md R91). -/
theorem decode_cases {w : Word} {i : Instr} (h : decode w = .ok i) :
    (fieldOp w = 0x01#8 ∧ i = .sample (fieldX w).toNat (fieldY w).toNat) ∨
      (fieldOp w = 0x02#8 ∧ i = .matchColour (fieldR w).toNat (fieldG w).toNat (fieldB w).toNat) ∨
      (i.IsZ ∧ fieldOp w = opcode i ∧ fieldOperand w = 0) := by
  by_cases hxy : fieldOp w = 0x01#8
  · rw [decode_xy hxy] at h
    cases h
    exact .inl ⟨hxy, rfl⟩
  by_cases hrgb : fieldOp w = 0x02#8
  · rw [decode_rgb hrgb] at h
    cases h
    exact .inr (.inl ⟨hrgb, rfl⟩)
  cases hrow : zFormat (fieldOp w).toNat with
  | none =>
    rw [decode_reserved hxy hrgb hrow] at h
    cases h
  | some j =>
    obtain ⟨hz, hop⟩ := zFormat_eq_some_iff.1 hrow
    have hop : fieldOp w = opcode j := (BitVec.eq_of_toNat_eq hop).symm
    rw [decode_z hz hop] at h
    split at h
    · cases h
      exact .inr (.inr ⟨hz, hop, ‹_›⟩)
    · cases h

/-! ## The round trip -/

/-- An operand in the range of its field is what the field holds (30_encoding.md R97). -/
theorem toNat_ofNat_of_le {n a : Nat} (h : a ≤ 2 ^ n - 1) : (BitVec.ofNat n a).toNat = a := by
  rw [BitVec.toNat_ofNat, Nat.mod_eq_of_lt]
  have := Nat.two_pow_pos n
  omega

theorem decode_encode {i : Instr} (h : i.WellFormed) : decode (encode i) = .ok i := by
  cases i with
  | sample x y =>
    obtain ⟨hx, hy⟩ := h
    have operand := fieldX_append_fieldY (encode (.sample x y))
    rw [fieldOperand_encode, operandBits, bitVec_append_inj] at operand
    rw [decode_xy (fieldOp_encode _), operand.1, operand.2, toNat_ofNat_of_le hx, toNat_ofNat_of_le hy]
  | matchColour r g b =>
    obtain ⟨hr, hg, hb⟩ := h
    have operand := fieldR_append_fieldG_append_fieldB (encode (.matchColour r g b))
    rw [fieldOperand_encode, operandBits, bitVec_append_inj, bitVec_append_inj] at operand
    obtain ⟨⟨er, eg⟩, eb⟩ := operand
    rw [decode_rgb (fieldOp_encode _), er, eg, eb, toNat_ofNat_of_le hr, toNat_ofNat_of_le hg, toNat_ofNat_of_le hb]
  | _ => rw [decode_z rfl (fieldOp_encode _), fieldOperand_encode]; rfl

theorem encode_of_decode {w : Word} {i : Instr} (h : decode w = .ok i) : encode i = w := by
  obtain ⟨hop, rfl⟩ | ⟨hop, rfl⟩ | ⟨hz, hop, hoperand⟩ := decode_cases h
  · refine encode_eq_of_fields hop ?_
    rw [← fieldX_append_fieldY]
    simp [operandBits]
  · refine encode_eq_of_fields hop ?_
    rw [← fieldR_append_fieldG_append_fieldB]
    simp [operandBits]
  · exact encode_eq_of_fields hop (hoperand.trans hz.operandBits_eq.symm)

theorem wellFormed_of_decode {w : Word} {i : Instr} (h : decode w = .ok i) : i.WellFormed := by
  have in12 (v : BitVec 12) : v.toNat ≤ 4095 := Nat.le_of_lt_succ v.isLt
  have in8 (v : BitVec 8) : v.toNat ≤ 255 := Nat.le_of_lt_succ v.isLt
  obtain ⟨-, rfl⟩ | ⟨-, rfl⟩ | ⟨hz, -, -⟩ := decode_cases h
  · exact ⟨in12 _, in12 _⟩
  · exact ⟨in8 _, in8 _, in8 _⟩
  · exact hz.wellFormed

/-- A word decodes to the well-formed command it is the encoding of. -/
theorem decode_eq_ok_iff {w : Word} {i : Instr} : decode w = .ok i ↔ encode i = w ∧ i.WellFormed := by
  constructor
  · exact fun h => ⟨encode_of_decode h, wellFormed_of_decode h⟩
  · rintro ⟨rfl, hwf⟩
    exact decode_encode hwf

/-! ## The opcode map -/

/-- The row of a command in the opcode map (30_encoding.md R92): a Z row fixes the whole word, another row OP alone. -/
def rowOf (i : Instr) : Word × Word := (if i.IsZ then 0xFFFFFFFF else 0xFF000000, opcode i ++ 0#24)

/-- The opcode map has a row for each command, and no other row. -/
theorem mem_opcodeRows_iff {row : Word × Word} : row ∈ opcodeRows ↔ ∃ i, rowOf i = row := by
  constructor
  · have listed : opcodeRows =
        [.nop, .sample 0 0, .matchColour 0 0 0, .dgrey, .dcolor, .pack, .copy1, .vflip, .mirror, .rot90, .rot180,
          .rot270, .invert].map rowOf := by decide
    rw [listed, List.mem_map]
    rintro ⟨i, -, hi⟩
    exact ⟨i, hi⟩
  · rintro ⟨i, rfl⟩
    cases i with
    | sample x y => exact (by decide : rowOf (.sample 0 0) ∈ opcodeRows)
    | matchColour r g b => exact (by decide : rowOf (.matchColour 0 0 0) ∈ opcodeRows)
    | _ => decide

theorem and_wholeMask (w : Word) : w &&& 0xFFFFFFFF = w := BitVec.and_allOnes

theorem and_opMask (w : Word) : w &&& 0xFF000000 = fieldOp w ++ 0#24 := by
  have mask : (0xFF000000 : Word) = BitVec.allOnes 8 ++ 0#24 := by decide
  conv_lhs => rw [← fieldOp_append_fieldOperand w, mask, BitVec.and_append, BitVec.and_allOnes, BitVec.and_zero]

/-- The words of a row: OP is the command's and, in a Z row, OPERAND is 0 (30_encoding.md R92, R96). -/
theorem rowMatches_rowOf_iff {i : Instr} {w : Word} :
    rowMatches (rowOf i) w = true ↔ fieldOp w = opcode i ∧ (i.IsZ → fieldOperand w = 0) := by
  by_cases hz : i.IsZ
  · rw [rowMatches, rowOf, if_pos hz, and_wholeMask, beq_iff_eq, word_eq_append_iff]
    exact and_congr_right fun _ => (imp_iff_right hz).symm
  · rw [rowMatches, rowOf, if_neg hz, and_opMask, beq_iff_eq, word_eq_append_iff, fieldOp_append, fieldOperand_append]
    exact and_congr_right fun _ => iff_of_true rfl fun h => absurd h hz

/-- A row holds the words that decode to a command of that row (30_encoding.md R96). -/
theorem rowMatches_rowOf_iff_decode {i : Instr} {w : Word} :
    rowMatches (rowOf i) w = true ↔ ∃ j, decode w = .ok j ∧ rowOf j = rowOf i := by
  rw [rowMatches_rowOf_iff]
  constructor
  · rintro ⟨hop, hoperand⟩
    cases i with
    | sample x y => exact ⟨_, decode_xy hop, rfl⟩
    | matchColour r g b => exact ⟨_, decode_rgb hop, rfl⟩
    | _ => exact ⟨_, by rw [decode_z rfl hop, if_pos (hoperand rfl)], rfl⟩
  · rintro ⟨j, hj, hrow⟩
    rw [← rowMatches_rowOf_iff, ← hrow, rowMatches_rowOf_iff, ← encode_of_decode hj]
    exact ⟨fieldOp_encode j, fun hz => by rw [fieldOperand_encode, hz.operandBits_eq]⟩

/-! ## Illegal words -/

/-- An OP in no row of the opcode map is reserved (30_encoding.md R93). -/
theorem decode_illegal_of_reserved {w : Word}
    (h : w.toNat / 2 ^ 24 ∉ [0x00, 0x01, 0x02, 0x10, 0x11, 0x20, 0x21, 0x30, 0x31, 0x32, 0x33, 0x34, 0x35]) :
    ∃ e, decode w = .error e := by
  have hxy : fieldOp w ≠ 0x01#8 := fun e => h (by rw [fieldOp_eq_iff.1 e]; decide)
  have hrgb : fieldOp w ≠ 0x02#8 := fun e => h (by rw [fieldOp_eq_iff.1 e]; decide)
  have hz : zFormat (fieldOp w).toNat = none := by
    rw [zFormat_eq_none_iff, fieldOp_toNat]
    exact fun hmem => h (by simp only [List.mem_cons] at hmem ⊢; tauto)
  exact ⟨_, decode_reserved hxy hrgb hz⟩

/-- A Z-format OP with an operand (30_encoding.md R94). -/
theorem decode_illegal_of_operand {w : Word}
    (hop : w.toNat / 2 ^ 24 ∈ [0x00, 0x10, 0x11, 0x20, 0x21, 0x30, 0x31, 0x32, 0x33, 0x34, 0x35])
    (hoperand : w.toNat % 2 ^ 24 ≠ 0) : ∃ e, decode w = .error e := by
  cases hrow : zFormat (w.toNat / 2 ^ 24) with
  | none => exact absurd hop (zFormat_eq_none_iff.1 hrow)
  | some i =>
    obtain ⟨hz, hi⟩ := zFormat_eq_some_iff.1 hrow
    have nonzero : fieldOperand w ≠ 0 := fun e => hoperand (by rw [← fieldOperand_toNat, e]; rfl)
    exact ⟨_, by rw [decode_z hz (fieldOp_eq_iff.2 hi.symm), if_neg nonzero]⟩

end Sys2Proof

namespace Sys2Proof.Machine

/-- ILLEGAL_COMMAND is error 1 (60_exceptions.md R301), and an illegal word does nothing but raise it. -/
theorem engineStep_illegal {s : State} {e : DecodeError} (hb : s.status.busy = true)
    (h : decode s.cmdWord = .error e) : engineStep s = .next { errorState s 1 with raced := false } := by
  rw [engineStep_busy hb, runAccepted_illegal h]
  rfl

end Sys2Proof.Machine

namespace Sys2Proof.Proofs

open Sys2Proof.Machine

/-- Settles O1: each operand field gives back the number that was put into it, which its range keeps whole. -/
theorem decodeOfEncodeIsTheCommand : Obligations.DecodeOfEncodeIsTheCommand := fun _ => decode_encode

/-- Settles O2: the fields the decoder reads make up the whole word, and a field's value is in its range. -/
theorem encodeOfDecodeIsTheWord : Obligations.EncodeOfDecodeIsTheWord := fun _ _ => decode_eq_ok_iff.1

/-- Settles O3: a row holds the words that decode to a command of that row, so a word that decodes is in the row of its
command alone, and an illegal word is in none. -/
theorem everyWordIsOneCommandOrIllegal : Obligations.EveryWordIsOneCommandOrIllegal := by
  intro w
  cases hw : decode w with
  | ok i =>
    have inRow : rowMatches (rowOf i) w = true := rowMatches_rowOf_iff_decode.2 ⟨i, hw, rfl⟩
    refine .inl ⟨i, rowOf i, rfl, mem_opcodeRows_iff.2 ⟨i, rfl⟩, inRow, by rwa [encode_of_decode hw], ?_⟩
    intro row hrow hmatch
    obtain ⟨k, rfl⟩ := mem_opcodeRows_iff.1 hrow
    obtain ⟨j, hj, hjk⟩ := rowMatches_rowOf_iff_decode.1 hmatch
    cases hw.symm.trans hj
    exact hjk.symm
  | error e =>
    refine .inr ⟨⟨e, rfl⟩, fun row hrow => Bool.eq_false_iff.2 fun hmatch => ?_⟩
    obtain ⟨k, rfl⟩ := mem_opcodeRows_iff.1 hrow
    obtain ⟨j, hj, -⟩ := rowMatches_rowOf_iff_decode.1 hmatch
    cases hw.symm.trans hj

/-- Settles O5: both kinds of word are illegal to the decoder, and the engine's turn then raises ILLEGAL_COMMAND; the
XY and the RGB format take every operand. -/
theorem illegalWordsEndInIllegalCommand : Obligations.IllegalWordsEndInIllegalCommand := by
  refine ⟨fun s hb hword => ?_, fun w hop => ?_⟩
  · obtain ⟨e, he⟩ : ∃ e, decode s.cmdWord = .error e :=
      hword.elim decode_illegal_of_reserved fun ⟨hop, hoperand⟩ => decode_illegal_of_operand hop hoperand
    have turn := engineStep_illegal hb he
    exact ⟨turn, fun hidle => (step_nil hidle).trans turn⟩
  · obtain hxy | hrgb := hop
    · exact ⟨_, decode_xy (fieldOp_eq_iff.2 hxy)⟩
    · exact ⟨_, decode_rgb (fieldOp_eq_iff.2 hrgb)⟩

/-- Settles O4: each word is the encoding of the command it stands for. -/
theorem writtenOutWordsDecode : Obligations.WrittenOutWordsDecode := by
  refine ⟨?nop, ?sample, ?matchColour, ?dgrey, ?copy1, ?rot270⟩ <;> exact decode_eq_ok_iff.2 (by decide)

end Sys2Proof.Proofs
end

section
/-! How a command ends (40_command.md R123 to R127, R129): the checks of the machine are those Sys2Proof.Safety writes
out, the first of them that fails names the error, and a command that fails none completes. -/

namespace Sys2Proof.Machine

open Sys2Proof.Config (Params)

/-! ## Each check, spelled twice -/

theorem modeOf_isNone_iff : ∀ v : BitVec 3, (modeOf v).isNone = true ↔ 5 ≤ v.toNat := by decide

/-- V4 (40_command.md R123), by the numbers of the modes and of the depths (10_state.md R23, R32). -/
theorem configUnsupported_iff (r : Regs) (i : Instr) : configUnsupported r i = true ↔ ConfigFails r i := by
  have binary : ∀ v : BitVec 3, (modeOf v == some .binary) = false ↔ v ≠ 0 := by decide
  have three : ∀ v : BitVec 3, (modeOf v == some .bwr || modeOf v == some .bwy || modeOf v == some .bwyr) = false ↔
      v ≠ 1 ∧ v ≠ 2 ∧ v ≠ 3 := by decide
  have oneBit : ∀ v : BitVec 6, (bppOf v == some .b1) = false ↔ v ≠ 1 := by decide
  have bytes : ∀ v : BitVec 6, (bppOf v == some .b24 || bppOf v == some .b32) = false ↔ v ≠ 24 ∧ v ≠ 32 := by decide
  cases i with
  | matchColour _ _ _ => exact modeOf_isNone_iff r.mode
  | pack => exact modeOf_isNone_iff r.mode
  | dgrey => simp only [configUnsupported, ConfigFails, Bool.not_eq_true', binary]
  | dcolor => simp only [configUnsupported, ConfigFails, Bool.or_eq_true, Bool.not_eq_true', three, bytes]
  | copy1 => simp only [configUnsupported, ConfigFails, Bool.or_eq_true, Bool.not_eq_true', binary, oneBit]
  | _ => simp [configUnsupported, ConfigFails]

/-- The regions V7 checks are the intervals of 20_memory.md R70 and R71. -/
theorem checkedRegions_intervals (r : Regs) (i : Instr) :
    (checkedRegions r i).map Region.interval = checkedIntervals r i := by
  cases i with
  | nop | matchColour => rfl
  | _ => exact congrArg (srcInterval r :: ·) (writeRegions_intervals r _)

/-- The regions V8 keeps apart are the intervals of 20_memory.md R70. -/
theorem separateRegions_intervals (r : Regs) (i : Instr) :
    (separateRegions r i).map Region.interval = apartIntervals r i := by
  have rotated : (if is4bpp r then [srcRegion r, scratchRegion r] else []).map Region.interval =
      if r.srcBpp = 4 then [srcInterval r, scrInterval r] else [] := by
    simp only [is4bpp_iff]
    split <;> rfl
  cases i with
  | dgrey => exact congrArg (srcInterval r :: ·) (writeRegions_intervals r .dgrey)
  | copy1 => exact congrArg (srcInterval r :: ·) (writeRegions_intervals r .copy1)
  | pack => exact congrArg (srcInterval r :: ·) (packPlanes_intervals r)
  | rot90 => exact rotated
  | rot270 => exact rotated
  | _ => rfl

theorem overlaps_eq_false_iff (g h : Region) :
    g.overlaps h = false ↔ Apart g.interval.1 g.interval.2 h.interval.1 h.interval.2 := by
  simp [Region.overlaps, Apart, Region.interval]

/-- No two regions of a list overlap exactly where their intervals are pairwise apart (20_memory.md R72). -/
theorem anyOverlap_eq_false_iff (gs : List Region) :
    anyOverlap gs = false ↔ (gs.map Region.interval).Pairwise fun g h => Apart g.1 g.2 h.1 h.2 := by
  induction gs with
  | nil => simp [anyOverlap]
  | cons g gs ih =>
    simp only [anyOverlap, Bool.or_eq_false_iff, List.any_eq_false, Bool.not_eq_true, overlaps_eq_false_iff, ih,
      List.map_cons, List.pairwise_cons, List.forall_mem_map]

/-! ## The checks in their order -/

/-- The check whose error is `e` fails, as the machine computes it. V1, ILLEGAL_COMMAND, is the decoder's. -/
def checkFailed (p : Params) (r : Regs) (i : Instr) : ErrCode → Bool
  | .illegalCommand => false
  | .invalidSource => needsSource i && sourceInvalid r
  | .badPitch => needsSource i && !pitchOk r
  | .unsupportedConfig => configUnsupported r i
  | .widthLimit => usesLineBuffers i && decide (p.maxW < r.width)
  | .coordRange => coordsOutside r i
  | .busError => (checkedRegions r i).any fun g => !g.inMemory p.memSize
  | .overlap => anyOverlap (separateRegions r i)

/-- The errors in the order of their codes (60_exceptions.md R301, R310). -/
def errorsInOrder : List ErrCode :=
  [.illegalCommand, .invalidSource, .badPitch, .unsupportedConfig, .widthLimit, .coordRange, .busError, .overlap]

theorem mem_errorsInOrder (e : ErrCode) : e ∈ errorsInOrder := by cases e <;> decide

theorem errorsInOrder_sorted : errorsInOrder.Pairwise fun e f => e.code.toNat < f.code.toNat := by decide

theorem find?_cons_eq_ite {α : Type} (p : α → Bool) (a : α) (l : List α) :
    (a :: l).find? p = if p a then some a else l.find? p := by
  cases h : p a <;> simp [h]

/-- `validate` answers the first check that fails, in the order of the codes (60_exceptions.md R310). -/
theorem validate_eq_find (p : Params) (r : Regs) (i : Instr) :
    validate p r i = errorsInOrder.find? (checkFailed p r i) := by
  simp only [errorsInOrder, find?_cons_eq_ite]
  rfl

theorem validate_eq_none_iff_checks {p : Params} {r : Regs} {i : Instr} :
    validate p r i = none ↔ ∀ e, checkFailed p r i e = false := by
  simp [validate_eq_find, mem_errorsInOrder]

/-- The error `validate` answers is that of a failed check, and no check of a lower code fails. -/
theorem validate_eq_some {p : Params} {r : Regs} {i : Instr} {e : ErrCode} (h : validate p r i = some e) :
    checkFailed p r i e = true ∧ ∀ f : ErrCode, f.code.toNat < e.code.toNat → checkFailed p r i f = false := by
  rw [validate_eq_find, List.find?_eq_some_iff_append] at h
  obtain ⟨he, before, after, hsplit, hbefore⟩ := h
  refine ⟨he, fun f hf => ?_⟩
  have sorted := errorsInOrder_sorted
  have hmem := mem_errorsInOrder f
  rw [hsplit] at sorted hmem
  have above := (List.pairwise_cons.1 (List.pairwise_append.1 sorted).2.1).1
  rcases List.mem_append.1 hmem with hf' | hf'
  · simpa using hbefore f hf'
  · rcases List.mem_cons.1 hf' with rfl | hf'
    · exact absurd hf (Nat.lt_irrefl _)
    · exact absurd hf (Nat.lt_asymm (above f hf'))

/-! ## The checks by their numbers -/

/-- The check of code `e` that the machine computes is the one Sys2Proof.Safety spells out. -/
theorem checkFails_code_iff (s : State) (i : Instr) (e : ErrCode) :
    CheckFails s i e.code.toNat ↔ checkFailed s.params s.regs i e = true := by
  cases e with
  | illegalCommand => exact ⟨False.elim, Bool.noConfusion⟩
  | invalidSource =>
    rw [checkFailed, Bool.and_eq_true, needsSource_iff, sourceInvalid_iff]
    rfl
  | badPitch =>
    rw [checkFailed, Bool.and_eq_true, needsSource_iff, Bool.not_eq_true', ← Bool.not_eq_true, pitchOk_iff]
    rfl
  | unsupportedConfig => exact (configUnsupported_iff s.regs i).symm
  | widthLimit =>
    have dithers : usesLineBuffers i = true ↔ i = .dgrey ∨ i = .dcolor := by cases i <;> simp [usesLineBuffers]
    rw [checkFailed, Bool.and_eq_true, dithers, decide_eq_true_iff]
    rfl
  | coordRange =>
    change (∃ x y, i = .sample x y ∧ (s.regs.width ≤ x ∨ s.regs.height ≤ y)) ↔ coordsOutside s.regs i = true
    cases i <;> simp [coordsOutside]
  | busError =>
    change (∃ g ∈ checkedIntervals s.regs i, s.params.memSize < g.1 + g.2) ↔ _
    simp [← checkedRegions_intervals, checkFailed, Region.inMemory, Region.interval]
  | overlap =>
    change ¬(apartIntervals s.regs i).Pairwise (fun g h => Apart g.1 g.2 h.1 h.2) ↔ _
    rw [← separateRegions_intervals, ← anyOverlap_eq_false_iff, Bool.not_eq_false]
    rfl

/-- A check that fails has the number of an error (60_exceptions.md R301). -/
theorem exists_code_of_checkFails {s : State} {i : Instr} {n : Nat} (h : CheckFails s i n) :
    ∃ e : ErrCode, e.code.toNat = n := by
  match n, h with
  | 2, _ => exact ⟨.invalidSource, rfl⟩
  | 3, _ => exact ⟨.badPitch, rfl⟩
  | 4, _ => exact ⟨.unsupportedConfig, rfl⟩
  | 5, _ => exact ⟨.widthLimit, rfl⟩
  | 6, _ => exact ⟨.coordRange, rfl⟩
  | 7, _ => exact ⟨.busError, rfl⟩
  | 8, _ => exact ⟨.overlap, rfl⟩

/-- A command passes its checks exactly where no check of 40_command.md R123 fails. -/
theorem validate_eq_none_iff_noCheckFails {s : State} {i : Instr} :
    validate s.params s.regs i = none ↔ ∀ n, ¬CheckFails s i n := by
  simp only [validate_eq_none_iff_checks, ← Bool.not_eq_true, ← checkFails_code_iff]
  constructor
  · intro h n hn
    obtain ⟨e, rfl⟩ := exists_code_of_checkFails hn
    exact h e hn
  · exact fun h e => h e.code.toNat

/-- The first check that fails is the one `validate` answers (60_exceptions.md R310). -/
theorem validate_of_firstFails {s : State} {i : Instr} {n : Nat} (hn : CheckFails s i n)
    (hfirst : ∀ k, k < n → ¬CheckFails s i k) : ∃ e, validate s.params s.regs i = some e ∧ e.code.toNat = n := by
  cases hv : validate s.params s.regs i with
  | none => exact absurd hn (validate_eq_none_iff_noCheckFails.1 hv n)
  | some e =>
    obtain ⟨he, hbelow⟩ := validate_eq_some hv
    rw [← checkFails_code_iff] at he
    have notBelow : ¬n < e.code.toNat := by
      obtain ⟨f, rfl⟩ := exists_code_of_checkFails hn
      intro hlt
      rw [checkFails_code_iff, hbelow f hlt] at hn
      cases hn
    have notAbove : ¬e.code.toNat < n := fun hlt => hfirst _ hlt he
    exact ⟨e, rfl, by omega⟩

/-! ## The two ends of a command -/

theorem raiseError_eq_errorState (e : ErrCode) (s : State) : raiseError e s = errorState s e.code.toNat := by
  simp [raiseError, errorState]

/-- A failed check ends the command with its error. -/
theorem exec_of_failed {i : Instr} {s : State} {e : ErrCode} (h : validate s.params s.regs i = some e) :
    exec i s = .next (raiseError e s) := by rw [exec_eq, runCommand_error h]

/-- A command that passes its checks does what it does and completes. -/
theorem exec_of_passed {i : Instr} {s : State} (h : validate s.params s.regs i = none) :
    exec i s = .next (complete (effectOf i s)) := by rw [exec_eq, runCommand_pass h]

/-- An effect sets GEOM_SKIP or leaves STATUS as it was. -/
theorem effectOf_status (i : Instr) (s : State) :
    ∃ k, (effectOf i s).status = { s.status with geomSkip := s.status.geomSkip || k } := by
  obtain ⟨r, k, m, g, h⟩ := effectOf_other i s
  exact ⟨k, by rw [h]⟩

@[simp] theorem mirrorEffect_regs (s : State) : (mirrorEffect s).regs = s.regs := by
  obtain ⟨k, m, g, h⟩ := mirrorEffect_other s
  rw [h]

/-- No effect writes ERR_CMD: the error mechanism alone does (10_state.md R26). -/
theorem effectOf_errCmd (i : Instr) (s : State) : (effectOf i s).regs.errCmd = s.regs.errCmd := by
  have rotation : ∀ b, (if is4bpp s.regs then exchangeSource (s.runWork b) else setGeomSkip s).regs.errCmd =
      s.regs.errCmd := by intro b; split <;> rfl
  cases i with
  | matchColour r g b => simp only [effectOf, matchEffect]; split <;> rfl
  | dcolor => simp only [effectOf, dcolorEffect]; split <;> rfl
  | pack => simp only [effectOf, packEffect]; split <;> rfl
  | mirror => simp [effectOf]
  | rot180 => simp [effectOf, rot180Effect]
  | rot90 => exact rotation _
  | rot270 => exact rotation _
  | _ => rfl

/-- Every command ends, with BUSY 0 and DONE 1 and OVERRUN as it was (40_command.md R125 to R127). -/
theorem exec_ends (i : Instr) (s : State) :
    ∃ t, exec i s = .next t ∧ t.status.busy = false ∧ t.status.done = true ∧ t.status.overrun = s.status.overrun := by
  cases hv : validate s.params s.regs i with
  | some e => exact ⟨_, exec_of_failed hv, rfl, rfl, rfl⟩
  | none =>
    obtain ⟨k, hk⟩ := effectOf_status i s
    exact ⟨_, exec_of_passed hv, rfl, rfl, by simp [hk]⟩

/-- NOP fails no check (40_command.md R123). -/
theorem validate_nop (p : Params) (r : Regs) : validate p r .nop = none := by
  simp [validate_eq_none, needsSource, configUnsupported, usesLineBuffers, coordsOutside, checkedRegions, readRegions,
    writeRegions, separateRegions, anyOverlap]

end Sys2Proof.Machine

namespace Sys2Proof.Proofs

open Sys2Proof.Machine

/-- Settles O20: `validate` answers the first failed check, whose error `raiseError` takes; an effect leaves ERR,
ERR_CODE and ERR_CMD alone. -/
theorem firstFailedCheckNamesTheError : Obligations.FirstFailedCheckNamesTheError := by
  intro i s
  constructor
  · intro n hn hfirst
    obtain ⟨e, hv, rfl⟩ := validate_of_firstFails hn hfirst
    rw [exec_of_failed hv, raiseError_eq_errorState]
  · intro hnone
    obtain ⟨k, hk⟩ := effectOf_status i s
    exact ⟨_, exec_of_passed (validate_eq_none_iff_noCheckFails.2 hnone), by simp [hk], by simp [hk],
      effectOf_errCmd i s⟩

/-- Settles O19: a command ends by the error mechanism or by completing, and either sets BUSY and DONE alike. -/
theorem everyCommandEnds : Obligations.EveryCommandEnds := exec_ends

/-- Settles O28: NOP fails no check and has no effect, so its completion is all that happens. -/
theorem nopCompletes : Obligations.NopCompletes := by
  intro s
  exact ⟨complete s, exec_of_passed (validate_nop s.params s.regs), by simp [CompletedWith, complete], rfl, rfl,
    rfl, rfl⟩

end Sys2Proof.Proofs
end

section
/-! How a command starts and whose turn it is (40_command.md R120 to R122, R128): a write to CMD, the one step that
raises BUSY, and the engine's turn, which runs the accepted word. -/

namespace Sys2Proof.Machine

/-! ## The engine's turn -/

/-- After a broken 20_memory.md R75 the engine's turn settles the race that `exec` left. -/
theorem engineStep_next {s t : State} {i : Instr} (hb : s.status.busy = true) (hd : decode s.cmdWord = .ok i)
    (he : exec i s = .next t) : engineStep s = .next (settleRace i s t) := by
  rw [engineStep_busy hb, runAccepted_next hd he]

/-- While R75 holds the engine's turn is `exec` of the decoded command. -/
theorem engineStep_exec {s : State} {i : Instr} (hb : s.status.busy = true) (hd : decode s.cmdWord = .ok i)
    (hr : s.raced = false) : engineStep s = exec i s := by
  obtain ⟨t, he, -⟩ := exec_ends i s
  rw [engineStep_next hb hd he, settleRace_clean hr, he]

/-! ## A placed command -/

/-- A word's 32 bits, taken as a number, present the word. -/
theorem presentedWord_toNat (w : Word) : presentedWord 32 w.toNat = w := by
  rw [presentedWord, Nat.mod_eq_of_lt w.isLt, BitVec.ofNat_toNat, BitVec.setWidth_eq]

/-- A placed word is accepted, with the engine's turn before whatever the host has pending (log entry 2). -/
theorem presentCommand_eq (w : Word) (s : State) :
    ∃ inputs, (inputs = [] ∧ s.inputs = [] ∨ inputs = .engineTurn :: s.inputs) ∧
      presentCommand w s =
        { accept w { s with status := { s.status with err := false, errCode := 0 }, inReset := false } with
          inputs := inputs } := by
  cases hi : s.inputs with
  | nil => exact ⟨[], .inl ⟨rfl, rfl⟩, by simp [presentCommand, hi, accept]⟩
  | cons e rest => exact ⟨_, .inr rfl, by simp [presentCommand, hi]⟩

@[simp] theorem presentCommand_cmdWord (w : Word) (s : State) : (presentCommand w s).cmdWord = w := by
  obtain ⟨inputs, -, h⟩ := presentCommand_eq w s
  rw [h]
  rfl

@[simp] theorem presentCommand_busy (w : Word) (s : State) : (presentCommand w s).status.busy = true := by
  obtain ⟨inputs, -, h⟩ := presentCommand_eq w s
  rw [h]
  rfl

@[simp] theorem presentCommand_raced (w : Word) (s : State) : (presentCommand w s).raced = false := by
  obtain ⟨inputs, -, h⟩ := presentCommand_eq w s
  rw [h]
  rfl

/-- The step after a command is placed is the engine's turn; the host's own pending actions wait. -/
theorem step_presentCommand (w : Word) (s : State) :
    step (presentCommand w s) = engineStep { presentCommand w s with inputs := s.inputs } := by
  obtain ⟨inputs, hinputs, h⟩ := presentCommand_eq w s
  rw [h]
  obtain ⟨rfl, hi⟩ | rfl := hinputs
  · rw [step_nil rfl, hi]
  · exact step_cons (e := .engineTurn) (rest := s.inputs) rfl

/-! ## The port at CMD -/

/-- CMD stands at offset 0x00C alone (10_state.md R20). -/
theorem portRegAt_eq_cmd {o : BitVec 11} (h : portRegAt o = .cmd) : o = 0x00C := by
  unfold portRegAt at h
  split at h
  case h_4 heq => exact BitVec.eq_of_toNat_eq heq
  case h_24 => split at h <;> cases h
  all_goals cases h

/-- A host write to CMD while reset is low (40_command.md R120, R121). -/
theorem hostRegWrite_cmd {s : State} (hr : s.inReset = false) (w : Word) :
    hostRegWrite 0x00C .word w s =
      .next (if s.status.busy || s.status.err then setOverrun s else accept w s) :=
  hostRegWrite_word rfl hr w

/-! ## What can start a command -/

/-- Of the writes to the port of an idle engine only an accepted one to CMD raises BUSY. -/
theorem writePort_starts {g : PortReg} {v : Word} {s : State} (hb : s.status.busy = false)
    (ht : (writePort g v s).status.busy = true) : g = .cmd ∧ s.status.err = false := by
  cases g with
  | status => simp [writePort, hb] at ht
  | cmd => exact ⟨rfl, by simpa [writePort, hb, apply_ite] using ht⟩
  | _ => simp [writePort, hb] at ht

theorem hostRegWrite_starts {o : BitVec 11} {width : AccessWidth} {v : Word} {s t : State}
    (h : hostRegWrite o width v s = .next t) (hb : s.status.busy = false) (ht : t.status.busy = true) :
    o = 0x00C ∧ width = .word ∧ s.inReset = false ∧ s.status.err = false := by
  unfold hostRegWrite at h
  split at h
  · rename_i hok
    simp only [portAccessOk, Bool.and_eq_true, beq_iff_eq] at hok
    cases h
    cases hr : s.inReset with
    | true => simp [hr, hb] at ht
    | false =>
      simp only [hr] at ht
      obtain ⟨hcmd, herr⟩ := writePort_starts hb ht
      exact ⟨portRegAt_eq_cmd hcmd, hok.1, rfl, herr⟩
  · cases h

theorem hostRegRead_status {o : BitVec 11} {w : AccessWidth} {s t : State} (h : hostRegRead o w s = .next t) :
    t.status = s.status := by
  unfold hostRegRead at h
  split at h
  · cases h; split <;> rfl
  · cases h

theorem hostMemWrite_status {a : Word} {v : Byte} {s t : State} (h : hostMemWrite a v s = .next t) :
    t.status = s.status := by
  unfold hostMemWrite at h
  split at h
  · cases h; rfl
  · cases h

theorem hostMemRead_status {a : Word} {s t : State} (h : hostMemRead a s = .next t) : t.status = s.status := by
  unfold hostMemRead at h
  split at h
  · cases h; split <;> rfl
  · cases h

/-- Of the actions of the host and the platform only an accepted write to CMD starts a command. -/
theorem hostStep_starts {e : HostEvent} {s t : State} (h : hostStep e s = .next t) (hb : s.status.busy = false)
    (ht : t.status.busy = true) : ∃ w, e = .regWrite 0x00C .word w ∧ s.inReset = false ∧ s.status.err = false := by
  have kept : t.status ≠ s.status := fun hst => by rw [hst, hb] at ht; cases ht
  cases e with
  | regWrite o width w =>
    obtain ⟨rfl, rfl, hr, herr⟩ := hostRegWrite_starts h hb ht
    exact ⟨w, rfl, hr, herr⟩
  | regRead o w => exact absurd (hostRegRead_status h) kept
  | memWrite a v => exact absurd (hostMemWrite_status h) kept
  | memRead a => exact absurd (hostMemRead_status h) kept
  | assertReset => cases h; cases ht
  | releaseReset => cases h; exact absurd rfl kept
  | engineTurn => cases (engineStep_idle hb).symm.trans h; exact absurd rfl kept

end Sys2Proof.Machine

namespace Sys2Proof.Proofs

open Sys2Proof.Machine

/-- Settles O6: a queued wait and an empty list both give the engine its turn, which runs the decoded command while
BUSY and else changes nothing. -/
theorem stepRunsTheDecodedCommand : Obligations.StepRunsTheDecodedCommand := by
  intro s
  refine ⟨fun i hd hb => ⟨fun hr => ?_, fun t he => ?_⟩, fun hb => ?_⟩
  · have turn := engineStep_exec hb hd hr
    exact ⟨turn, fun hi => (step_nil hi).trans turn⟩
  · have turn := engineStep_next hb hd he
    exact ⟨turn, fun hi => (step_nil hi).trans turn⟩
  · have turn := engineStep_idle hb
    exact ⟨turn, fun hi => (step_nil hi).trans turn⟩

/-- Settles O7: the placed word is the encoding, which decodes to the command, and the next step is the engine's. -/
theorem placedInstructionRunsNext : Obligations.PlacedInstructionRunsNext := by
  intro s i hwf
  rw [State.withFetchWord, presentedWord_toNat]
  refine ⟨presentCommand_cmdWord _ s, presentCommand_busy _ s, ?_⟩
  rw [step_presentCommand]
  refine engineStep_exec (presentCommand_busy _ s) ?_ (presentCommand_raced _ s)
  exact (congrArg decode (presentCommand_cmdWord _ s)).trans (decode_encode hwf)

/-- Settles O8: the port accepts the write; the engine's turn, the reads, the memory accesses, reset and every other
register write leave an idle engine idle. -/
theorem onlyAnAcceptedCmdWriteStartsACommand : Obligations.OnlyAnAcceptedCmdWriteStartsACommand := by
  constructor
  · intro s w hr hb herr
    have write := hostRegWrite_cmd hr w
    rw [hb, herr] at write
    exact write
  · intro s t h hb ht
    cases hi : s.inputs with
    | nil =>
      rw [step_nil hi, engineStep_idle hb] at h
      cases h
      exact absurd ht (by simp [hb])
    | cons e rest =>
      rw [step_cons hi] at h
      obtain ⟨w, rfl, hr, herr⟩ := hostStep_starts h hb ht
      exact ⟨w, rest, rfl, hr, herr⟩

/-- Settles O9: the port drops the write and sets OVERRUN. -/
theorem cmdWriteWhileBusyOrErrIsDropped : Obligations.CmdWriteWhileBusyOrErrIsDropped := by
  intro s w hr h
  have write := hostRegWrite_cmd hr w
  rw [if_pos (Bool.or_eq_true_iff.2 h)] at write
  exact write

end Sys2Proof.Proofs
end

section
/-! The pixel SAMPLE reports (41_sampler.md R140 to R147): a colour as the word RESULT holds, the Pixel Sampler at each
depth, and SAMPLE of a pixel of a ready source. -/

namespace Sys2Proof.Machine

/-! ## A colour as a word -/

/-- The word of a colour is its three components side by side (10_state.md R30). -/
theorem Rgb.toWord_toNat (c : Rgb) : c.toWord.toNat = c.r.toNat * 2 ^ 16 + c.g.toNat * 2 ^ 8 + c.b.toNat := by
  have append : ∀ {n : Nat} (u : BitVec n) (v : Byte), (u ++ v).toNat = u.toNat * 2 ^ 8 + v.toNat := fun u v => by
    rw [BitVec.toNat_append, ← Nat.shiftLeft_add_eq_or_of_lt v.isLt, Nat.shiftLeft_eq]
  simp only [Rgb.toWord, append, BitVec.toNat_ofNat]
  omega

/-- The word of a register's colour is the register, zero-extended (10_state.md R40). -/
theorem rgbOf_toWord (v : BitVec 24) : (rgbOf v).toWord = v.setWidth 32 := by
  have hv := v.isLt
  apply BitVec.eq_of_toNat_eq
  simp only [Rgb.toWord_toNat, rgbOf, BitVec.extractLsb'_toNat, Nat.shiftRight_eq_div_pow, BitVec.toNat_setWidth]
  omega

/-! ## The Pixel Sampler, depth by depth -/

section depths

variable {r : Regs} (m : Mem) (x y : Nat)

/-- 1 bpp: a 1 bit is black (41_sampler.md R141). -/
theorem sample_toWord_1bpp (h : r.srcBpp = 1) :
    (sample r m x y).toWord = if rowBit m (srcRow r y) x then 0 else 0xFFFFFF := by
  have hs : sample r m x y = if rowBit m (srcRow r y) x then Rgb.black else Rgb.white := by
    simp only [sample, h]; rfl
  rw [hs]
  split <;> rfl

/-- 4 bpp: the nibble's palette entry (41_sampler.md R142). -/
theorem sample_toWord_4bpp (h : r.srcBpp = 4) {i : Fin 256} (hi : i.val = rowNibble m (srcRow r y) x) :
    (sample r m x y).toWord = r.pal[i].setWidth 32 := by
  have hs : sample r m x y = sample4 r m (srcRow r y) x := by simp only [sample, h]; rfl
  rw [← getNib_eq] at hi
  simp only [hs, sample4, rgbOf_toWord, ← hi, Fin.getElem_fin]

/-- 8 bpp: the byte's palette entry (41_sampler.md R143). -/
theorem sample_toWord_8bpp (h : r.srcBpp = 8) {i : Fin 256} (hi : i.val = (Mem.read m (srcRow r y + x)).toNat) :
    (sample r m x y).toWord = r.pal[i].setWidth 32 := by
  have hs : sample r m x y = sample8 r m (srcRow r y) x := by simp only [sample, h]; rfl
  simp only [hs, sample8, rgbOf_toWord, ← hi, Fin.getElem_fin]

/-- 24 bpp: three bytes, blue first (41_sampler.md R144). -/
theorem sample_24bpp (h : r.srcBpp = 24) : sample r m x y = sampleBgr 3 m (srcRow r y) x := by
  simp only [sample, h]; rfl

/-- 32 bpp: the first three of four bytes, blue first (41_sampler.md R145). -/
theorem sample_32bpp (h : r.srcBpp = 32) : sample r m x y = sampleBgr 4 m (srcRow r y) x := by
  simp only [sample, h]; rfl

end depths

/-! ## SAMPLE of a pixel of the image -/

/-- SAMPLE of a pixel of a ready source fails no check (40_command.md R123). -/
theorem SourceReady.validate_sample {s : State} {x y : Nat} (h : SourceReady s) (hx : x < s.regs.width)
    (hy : y < s.regs.height) : validate s.params s.regs (.sample x y) = none := by
  obtain ⟨hsource, hpitch, hregion⟩ := h.checks
  have hcoords : coordsOutside s.regs (.sample x y) = false := by simp [coordsOutside, hx, hy]
  have hregions : ∀ g ∈ checkedRegions s.regs (.sample x y), g.base + g.size ≤ s.params.memSize := by
    simpa [checkedRegions, readRegions, writeRegions] using hregion
  exact validate_eq_none.2 ⟨fun _ => ⟨hsource, hpitch⟩, rfl, nofun, hcoords, hregions, rfl⟩

/-- Completion after a write of RESULT changes RESULT, BUSY and DONE, and the internal state (40_command.md R126). -/
theorem completedWith_setResult (v : Word) (s : State) :
    CompletedWith s (complete (setResult v s)) { s.regs with result := v } false := by
  simp [CompletedWith, complete, setResult]

end Sys2Proof.Machine

namespace Sys2Proof.Proofs

open Sys2Proof.Machine

/-- Settles O29: a pixel of a ready source fails no check, so SAMPLE completes with the pixel in RESULT; what the pixel
is follows depth by depth from the Pixel Sampler. -/
theorem sampleReadsThePixel : Obligations.SampleReadsThePixel := by
  intro s x y hready hx hy
  refine ⟨complete (sampleEffect x y s), (sample s.regs s.mem x y).toWord,
    exec_of_passed (hready.validate_sample hx hy), completedWith_setResult _ s, rfl, ⟨rfl, rfl, rfl⟩,
    ?b1, ?b4, ?b8, ?b24, ?b32⟩
  case b1 => exact sample_toWord_1bpp s.mem x y
  case b4 => exact fun h _ => sample_toWord_4bpp s.mem x y h
  case b8 => exact fun h _ => sample_toWord_8bpp s.mem x y h
  case b24 => intro h; rw [sample_24bpp s.mem x y h, Rgb.toWord_toNat]; rfl
  case b32 => intro h; rw [sample_32bpp s.mem x y h, Rgb.toWord_toNat]; rfl

end Sys2Proof.Proofs
end

section
/-! The Colour Matcher (42_matcher.md R160 to R171): luma, the grey path and each matcher clause by clause, MATCH in a
mode that is not reserved, and the colour of a symbol. -/

namespace Sys2Proof.Machine

open Sys2Proof.Config (Params)

/-! ## Modes -/

/-- A mode code of at most 4 names a mode (10_state.md R23). -/
theorem exists_modeOf_of_le {v : BitVec 3} (h : v.toNat ≤ 4) : ∃ m, modeOf v = some m :=
  Option.ne_none_iff_exists'.1 fun hnone => by
    have reserved := (modeOf_isNone_iff v).1 (by rw [hnone]; rfl)
    omega

/-- A known code names the one mode. -/
theorem mode_eq_of_code {v w : BitVec 3} {m m' : Mode} (hm : modeOf v = some m) (hv : v = w)
    (hm' : modeOf w = some m') : m = m' := by
  subst hv
  exact Option.some.inj (hm.symm.trans hm')

theorem modeOf_eq_gray4_iff {v : BitVec 3} : modeOf v = some .gray4 ↔ v = 4 := by
  revert v
  decide

/-! ## Luma and the grey path -/

section matchers

variable (r : Regs) (c : Rgb)

/-- Luma is one byte, since it averages four (42_matcher.md R160). -/
theorem luma_lt : luma c < 2 ^ 8 := by
  have hr := c.r.isLt
  have hg := c.g.isLt
  have hb := c.b.isLt
  simp only [luma]
  omega

theorem grey_toNat (gr : Nat) : (grey r gr).toNat = if r.thrGrey.toNat ≤ gr then 1 else 0 := by
  unfold grey
  split <;> rfl

/-! ## The tests of the chromatic matchers -/

theorem redMargin_iff : redMargin r c = true ↔
    (r.marginRB.toNat : Int) < c.r.toNat - c.b.toNat ∧ (r.marginRG.toNat : Int) < c.r.toNat - c.g.toNat := by
  simp [redMargin, exceeds]

theorem yellowMargin_iff : yellowMargin r c = true ↔
    (r.marginY.toNat : Int) < c.r.toNat - c.b.toNat ∧ (r.marginY.toNat : Int) < c.g.toNat - c.b.toNat := by
  simp [yellowMargin, exceeds]

theorem dark3_iff : dark3 r c = true ↔ luma c < r.thr3Luma.toNat ∧ c.r.toNat < r.thr3Chan.toNat := by
  simp [dark3, BitVec.lt_def]

theorem dark4_iff : dark4 r c = true ↔
    luma c < r.thr4Luma.toNat ∨ (c.r.toNat < r.thr4Chan.toNat ∧ c.g.toNat < r.thr4Chan.toNat) := by
  simp [dark4, BitVec.lt_def]

/-! ## The matchers, clause by clause -/

/-- BWR: the grey path, black, red and white (42_matcher.md R163). -/
theorem matchBwr_clauses :
    (¬c.b < c.r → matchBwr r c = grey r (luma c)) ∧ (c.b < c.r → dark3 r c = true → matchBwr r c = 0) ∧
      (c.b < c.r → ¬dark3 r c = true → redMargin r c = true → matchBwr r c = 2) ∧
      (c.b < c.r → ¬dark3 r c = true → ¬redMargin r c = true → matchBwr r c = 1) := by
  unfold matchBwr
  refine ⟨fun hc => ?grey, fun hc hd => ?black, fun hc hd hm => ?red, fun hc hd hm => ?white⟩
  case grey => rw [if_neg hc]
  case black => rw [if_pos hc, if_pos hd]
  case red => rw [if_pos hc, if_neg hd, if_pos hm]
  case white => rw [if_pos hc, if_neg hd, if_neg hm]

/-- BWY: the grey path, black, yellow and white (42_matcher.md R164). -/
theorem matchBwy_clauses :
    (¬(c.b < c.r ∧ c.b < c.g) → matchBwy r c = grey r (luma c)) ∧
      (c.b < c.r ∧ c.b < c.g → dark3 r c = true → matchBwy r c = 0) ∧
      (c.b < c.r ∧ c.b < c.g → ¬dark3 r c = true → yellowMargin r c = true → matchBwy r c = 2) ∧
      (c.b < c.r ∧ c.b < c.g → ¬dark3 r c = true → ¬yellowMargin r c = true → matchBwy r c = 1) := by
  unfold matchBwy
  refine ⟨fun hc => ?grey, fun hc hd => ?black, fun hc hd hm => ?yellow, fun hc hd hm => ?white⟩
  case grey => rw [if_neg hc]
  case black => rw [if_pos hc, if_pos hd]
  case yellow => rw [if_pos hc, if_neg hd, if_pos hm]
  case white => rw [if_pos hc, if_neg hd, if_neg hm]

/-- BWYR: the grey path, black, red, yellow and white, red before yellow (42_matcher.md R165). -/
theorem matchBwyr_clauses :
    (¬c.b < c.r → matchBwyr r c = grey r (luma c)) ∧ (c.b < c.r → dark4 r c = true → matchBwyr r c = 0) ∧
      (c.b < c.r → ¬dark4 r c = true → redMargin r c = true → matchBwyr r c = 3) ∧
      (c.b < c.r → ¬dark4 r c = true → ¬redMargin r c = true → yellowMargin r c = true → matchBwyr r c = 2) ∧
      (c.b < c.r → ¬dark4 r c = true → ¬redMargin r c = true → ¬yellowMargin r c = true → matchBwyr r c = 1) := by
  unfold matchBwyr
  refine ⟨fun hc => ?grey, fun hc hd => ?black, fun hc hd hm => ?red, fun hc hd hm hy => ?yellow,
    fun hc hd hm hy => ?white⟩
  case grey => rw [if_neg hc]
  case black => rw [if_pos hc, if_pos hd]
  case red => rw [if_pos hc, if_neg hd, if_pos hm]
  case yellow => rw [if_pos hc, if_neg hd, if_neg hm, if_pos hy]
  case white => rw [if_pos hc, if_neg hd, if_neg hm, if_neg hy]

/-- GRAY4 is the two top bits of luma (42_matcher.md R166). -/
theorem matchGray4_toNat : (matchGray4 c).toNat = luma c / 2 ^ 6 := by
  have hl := luma_lt c
  simp only [matchGray4, BitVec.toNat_ofNat]
  omega

variable {r c}

/-- A colour whose red does not exceed its blue is no chromatic candidate: every threshold mode takes the grey path
(42_matcher.md R162, R167). -/
theorem matchSymbol_of_red_le_blue {m : Mode} (hm : m ≠ .gray4) (hc : ¬c.b < c.r) :
    matchSymbol m r c = grey r (luma c) := by
  cases m with
  | binary => rfl
  | bwr => exact (matchBwr_clauses r c).1 hc
  | bwy => exact (matchBwy_clauses r c).1 fun hcand => hc hcand.1
  | bwyr => exact (matchBwyr_clauses r c).1 hc
  | gray4 => exact absurd rfl hm

end matchers

/-! ## RESULT of MATCH -/

/-- RESULT holds luma from bit 8 up and the symbol below (42_matcher.md R170). -/
theorem matchResult_toNat (m : Mode) (r : Regs) (c : Rgb) :
    (matchResult m r c).toNat = luma c * 2 ^ 8 + (matchSymbol m r c).toNat := by
  have hl := luma_lt c
  have hs := (matchSymbol m r c).isLt
  have luma_byte : ((BitVec.ofNat 8 (luma c)).setWidth 32 <<< 8).toNat = luma c <<< 8 := by
    simp only [BitVec.toNat_shiftLeft, BitVec.toNat_setWidth, BitVec.toNat_ofNat, Nat.shiftLeft_eq]
    omega
  have symbol : ((matchSymbol m r c).setWidth 32).toNat = (matchSymbol m r c).toNat := by
    rw [BitVec.toNat_setWidth]
    omega
  rw [matchResult, BitVec.toNat_or, luma_byte, symbol, ← Nat.shiftLeft_add_eq_or_of_lt (by omega), Nat.shiftLeft_eq]

theorem matchResult_eq (m : Mode) (r : Regs) (c : Rgb) :
    matchResult m r c = BitVec.ofNat 32 (luma c * 2 ^ 8 + (matchSymbol m r c).toNat) := by
  rw [← matchResult_toNat, BitVec.ofNat_toNat, BitVec.setWidth_eq]

/-! ## MATCH -/

/-- MATCH in a mode that is not reserved fails no check (42_matcher.md R170). -/
theorem validate_matchColour (p : Params) {rs : Regs} {m : Mode} (hm : modeOf rs.mode = some m) (r g b : Nat) :
    validate p rs (.matchColour r g b) = none := by
  have hconfig : configUnsupported rs (.matchColour r g b) = false := by simp [configUnsupported, hm]
  exact validate_eq_none.2 ⟨nofun, hconfig, nofun, rfl, nofun, rfl⟩

/-- MATCH in a mode that is not reserved writes RESULT and completes (42_matcher.md R170). -/
theorem exec_matchColour {s : State} {m : Mode} (hm : modeOf s.regs.mode = some m) (r g b : Nat) :
    exec (.matchColour r g b) s = .next (complete (setResult (matchResult m s.regs (operandColour r g b)) s)) := by
  rw [exec_of_passed (validate_matchColour s.params hm r g b)]
  simp only [effectOf, matchEffect, hm]

/-- The components of a well-formed operand are those of its colour (30_encoding.md R91, R97). -/
theorem operandColour_of_wellFormed {r g b : Nat} (h : (Instr.matchColour r g b).WellFormed) :
    ∃ c, operandColour r g b = c ∧ c.r.toNat = r ∧ c.g.toNat = g ∧ c.b.toNat = b := by
  obtain ⟨hr, hg, hb⟩ := h
  exact ⟨_, rfl, toNat_ofNat_of_le hr, toNat_ofNat_of_le hg, toNat_ofNat_of_le hb⟩

/-! ## The colour of a symbol -/

section symbols

variable (m : Mode) (r : Regs)

theorem symColour_black : symColour m r 0 = { r := 0, g := 0, b := 0 } := rfl

theorem symColour_white : symColour m r 1 = { r := 255, g := 255, b := 255 } := rfl

/-- Symbol 2 is the red of BWR and the yellow of BWY and BWYR (42_matcher.md R169). -/
theorem symColour_third {m : Mode} (hm : m = .bwr ∨ m = .bwy ∨ m = .bwyr) :
    symColour m r 2 = rgbOf (if m = .bwr then r.colorRed else r.colorYel) := by
  rcases hm with rfl | rfl | rfl <;> rfl

theorem symColour_red : symColour m r 3 = rgbOf r.colorRed := rfl

end symbols

/-- The components of a colour register are its bytes, red on top (10_state.md R41). -/
theorem rgbOf_components (v : BitVec 24) :
    (rgbOf v).r.toNat = v.toNat / 2 ^ 16 ∧ (rgbOf v).g.toNat = v.toNat / 2 ^ 8 % 2 ^ 8 ∧
      (rgbOf v).b.toNat = v.toNat % 2 ^ 8 := by
  have hred : v.toNat / 2 ^ 16 < 2 ^ 8 := Nat.div_lt_of_lt_mul v.isLt
  simpa [rgbOf, Nat.shiftRight_eq_div_pow] using hred

end Sys2Proof.Machine

namespace Sys2Proof.Proofs

open Sys2Proof.Machine

/-- Settles O30: a mode that is not reserved passes the checks, so MATCH completes with luma and symbol in RESULT; what
the symbol is follows mode by mode from the clauses of its matcher. -/
theorem matchWritesLumaAndSymbol : Obligations.MatchWritesLumaAndSymbol := by
  intro s r g b hwf hmode
  obtain ⟨m, hm⟩ := exists_modeOf_of_le hmode
  obtain ⟨c, hc, rfl, rfl, rfl⟩ := operandColour_of_wellFormed hwf
  refine ⟨_, (matchSymbol m s.regs c).toNat, exec_matchColour hm _ _ _, ?completed, rfl, ⟨rfl, rfl, rfl⟩,
    ?binary, ?bwr, ?bwy, ?bwyr, ?gray4⟩
  case completed =>
    rw [hc, matchResult_eq]
    exact completedWith_setResult _ s
  case binary =>
    intro h
    obtain rfl := mode_eq_of_code (m' := .binary) hm h rfl
    exact grey_toNat s.regs (luma c)
  case bwr =>
    intro h
    obtain rfl := mode_eq_of_code (m' := .bwr) hm h rfl
    have clauses := matchBwr_clauses s.regs c
    simp only [dark3_iff, redMargin_iff, grey_toNat, ← BitVec.toNat_inj] at clauses
    exact clauses
  case bwy =>
    intro h
    obtain rfl := mode_eq_of_code (m' := .bwy) hm h rfl
    have clauses := matchBwy_clauses s.regs c
    simp only [dark3_iff, yellowMargin_iff, grey_toNat, ← BitVec.toNat_inj] at clauses
    exact clauses
  case bwyr =>
    intro h
    obtain rfl := mode_eq_of_code (m' := .bwyr) hm h rfl
    have clauses := matchBwyr_clauses s.regs c
    simp only [dark4_iff, redMargin_iff, yellowMargin_iff, grey_toNat, ← BitVec.toNat_inj] at clauses
    exact clauses
  case gray4 =>
    intro h
    obtain rfl := mode_eq_of_code (m' := .gray4) hm h rfl
    exact matchGray4_toNat c

/-- Settles O31: the red of a pure grey pixel does not exceed its blue, so the threshold modes take the grey path, and
its luma is its value. -/
theorem pureGreyTakesTheGreyPath : Obligations.PureGreyTakesTheGreyPath := by
  intro s v hv hmode
  obtain ⟨m, hm⟩ := exists_modeOf_of_le hmode
  obtain ⟨c, hc, hr, hg, hb⟩ := operandColour_of_wellFormed (r := v) (g := v) (b := v) ⟨hv, hv, hv⟩
  have hluma : luma c = v := by
    rw [luma, hr, hg, hb]
    omega
  have hresult := matchResult_toNat m s.regs c
  have hsymbol := (matchSymbol m s.regs c).isLt
  rw [hluma] at hresult
  have hhigh : (matchResult m s.regs c).toNat / 2 ^ 8 = v := by omega
  have hlow : (matchResult m s.regs c).toNat % 2 ^ 8 = (matchSymbol m s.regs c).toNat := by omega
  refine ⟨_, exec_matchColour hm v v v, ?luma, fun hne => ?grey, fun heq => ?gray4⟩ <;> rw [hc]
  case luma => exact hhigh
  case grey =>
    have hm4 : m ≠ .gray4 := fun h => hne (modeOf_eq_gray4_iff.1 (h ▸ hm))
    have hcand : ¬c.b < c.r := by rw [BitVec.lt_def, hr, hb]; exact lt_irrefl v
    calc (matchResult m s.regs c).toNat % 2 ^ 8
      _ = (matchSymbol m s.regs c).toNat := hlow
      _ = (grey s.regs (luma c)).toNat := by rw [matchSymbol_of_red_le_blue hm4 hcand]
      _ = if s.regs.thrGrey.toNat ≤ v then 1 else 0 := by rw [grey_toNat, hluma]
  case gray4 =>
    obtain rfl := mode_eq_of_code (m' := .gray4) hm heq rfl
    calc (matchResult .gray4 s.regs c).toNat % 2 ^ 8
      _ = (matchGray4 c).toNat := hlow
      _ = v / 2 ^ 6 := by rw [matchGray4_toNat, hluma]

/-- Settles O34: the four symbols by cases, and the bytes of COLOR_RED and COLOR_YEL. -/
theorem symbolColours : Obligations.SymbolColours := by
  intro m r hm
  refine ⟨symColour_black m r, symColour_white m r, ?third, fun _ => ?red⟩
  case third =>
    rintro c rfl
    rw [symColour_third r hm]
    exact rgbOf_components _
  case red =>
    rw [symColour_red]
    exact rgbOf_components _

end Sys2Proof.Proofs
end

section
/-! The error line buffers (43_dither.md R190 to R192, R196): what the pixels of a pass have left in every slot, as a
sum over the earlier neighbours, the error a pixel reads and the range of every slot. -/

namespace Sys2Proof.Machine

open Sys2Proof.Config (Params)

/-! ## The terms of a residual -/

/-- The error that goes to the next column (43_dither.md R191). -/
def forwardTerm (e : Int) : Int := asr (7 * asr e 1) 3

/-- The error that goes down-back (43_dither.md R191). -/
def backTerm (e : Int) : Int := asr (3 * asr e 1) 3

/-- The error that goes down (43_dither.md R191). -/
def downTerm (e : Int) : Int := asr (5 * asr e 1) 3

/-- The error that goes down-forward (43_dither.md R191). -/
def diagonalTerm (e : Int) : Int := asr (asr e 1) 3

/-- A residual of a pixel, which differs from a byte by a byte (43_dither.md R196). -/
def ResidualRange (e : Int) : Prop := -255 ≤ e ∧ e ≤ 255

/-- The ranges of the four terms (43_dither.md R196). -/
theorem ResidualRange.terms {e : Int} (h : ResidualRange e) :
    (-112 ≤ forwardTerm e ∧ forwardTerm e ≤ 111) ∧ (-48 ≤ backTerm e ∧ backTerm e ≤ 47) ∧
      (-80 ≤ downTerm e ∧ downTerm e ≤ 79) ∧ (-16 ≤ diagonalTerm e ∧ diagonalTerm e ≤ 15) := by
  obtain ⟨hlo, hhi⟩ := h
  simp only [forwardTerm, backTerm, downTerm, diagonalTerm, asr_eq]
  omega

/-! ## What the pixels of a row have sent -/

/-- What slot `k` holds of the terms `g 0 .. g (n - 1)` when pixel `i` sends its term to slot `i + d`. -/
def arrived (n d : Nat) (g : Nat → Int) (k : Nat) : Int := if d ≤ k ∧ k - d < n then g (k - d) else 0

@[simp] theorem arrived_zero (d : Nat) (g : Nat → Int) (k : Nat) : arrived 0 d g k = 0 := by simp [arrived]

/-- One more pixel sends its term to one slot. -/
theorem arrived_succ (n d : Nat) (g : Nat → Int) (k : Nat) :
    arrived (n + 1) d g k = arrived n d g k + if k = n + d then g n else 0 := by
  unfold arrived
  by_cases hk : k = n + d
  · subst hk; simp
  · have : (d ≤ k ∧ k - d < n + 1) ↔ (d ≤ k ∧ k - d < n) := by omega
    simp only [hk, this, if_false, Int.add_zero]

/-- A bound of every term bounds what has arrived. -/
theorem arrived_range {n d k : Nat} {g : Nat → Int} {lo hi : Int} (h : ∀ i, lo ≤ g i ∧ g i ≤ hi)
    (hlo : lo ≤ 0) (hhi : 0 ≤ hi) : lo ≤ arrived n d g k ∧ arrived n d g k ≤ hi := by
  unfold arrived
  split
  · exact h _
  · exact ⟨hlo, hhi⟩

/-- What the first `n` pixels of a row with residuals `e` have sent to slot `k` of the next row (43_dither.md R191). -/
def sentDown (n : Nat) (e : Nat → Int) (k : Nat) : Int :=
  arrived n 0 (fun i => backTerm (e i)) k + arrived n 1 (fun i => downTerm (e i)) k +
    arrived n 2 (fun i => diagonalTerm (e i)) k

/-- What slot `k` of row `y` got from the row above, `width` pixels wide, of which row 0 has none. -/
def fromAbove (width : Nat) (e : Nat → Nat → Int) : Nat → Nat → Int
  | 0, _ => 0
  | y + 1, k => sentDown width (e y) k

/-- The exact value of slot `k` of the current row, `x` pixels into row `y`. -/
def slotValue (width : Nat) (e : Nat → Nat → Int) (y x k : Nat) : Int :=
  fromAbove width e y k + arrived x 2 (fun i => forwardTerm (e y i)) k

theorem sentDown_range {n : Nat} {e : Nat → Int} (h : ∀ i, ResidualRange (e i)) (k : Nat) :
    -144 ≤ sentDown n e k ∧ sentDown n e k ≤ 141 := by
  have hback := arrived_range (n := n) (d := 0) (k := k) (fun i => (h i).terms.2.1) (by decide) (by decide)
  have hdown := arrived_range (n := n) (d := 1) (k := k) (fun i => (h i).terms.2.2.1) (by decide) (by decide)
  have hdiag := arrived_range (n := n) (d := 2) (k := k) (fun i => (h i).terms.2.2.2) (by decide) (by decide)
  unfold sentDown
  omega

/-- A slot holds at most one term of each kind, so it lies in `-256 .. 252` (43_dither.md R196). -/
theorem slotValue_range {e : Nat → Nat → Int} (h : ∀ y x, ResidualRange (e y x)) (width y x k : Nat) :
    -256 ≤ slotValue width e y x k ∧ slotValue width e y x k ≤ 252 := by
  have hforward := arrived_range (n := x) (d := 2) (k := k) (fun i => (h y i).terms.1) (by decide) (by decide)
  unfold slotValue
  cases y with
  | zero => simp only [fromAbove]; omega
  | succ y =>
    have habove := sentDown_range (n := width) (h y) k
    simp only [fromAbove]
    omega

theorem arrived_left {n x : Nat} (hx : x ≤ n) (g : Nat → Int) :
    arrived n 2 g (x + 1) = if 1 ≤ x then g (x - 1) else 0 := by
  have hcond : 2 ≤ x + 1 ∧ x + 1 - 2 < n ↔ 1 ≤ x := by omega
  rw [arrived, if_congr hcond rfl rfl, show x + 1 - 2 = x - 1 by omega]

theorem arrived_above {n x : Nat} (hx : x < n) (g : Nat → Int) : arrived n 1 g (x + 1) = g x := by
  simp [arrived, hx]

theorem arrived_right (n x : Nat) (g : Nat → Int) :
    arrived n 0 g (x + 1) = if x + 1 < n then g (x + 1) else 0 := by
  simp [arrived]

/-- What column `x` of row `y` reads from its slot is the error its four earlier neighbours sent (43_dither.md R192). -/
theorem slotValue_eq_receivedError {width x : Nat} (hx : x < width) (e : Nat → Nat → Int) (y : Nat) :
    slotValue width e y x (x + 1) = receivedError width e y x := by
  cases y with
  | zero => simp [slotValue, fromAbove, receivedError, arrived_left, forwardTerm, asr_eq]
  | succ y =>
    simp only [slotValue, fromAbove, sentDown, arrived_left (Nat.le_refl x), arrived_left hx.le, arrived_above hx,
      arrived_right]
    simp [receivedError, forwardTerm, backTerm, downTerm, diagonalTerm, asr_eq]
    ring

/-! ## Line buffers with given values -/

/-- The `n` slots that hold the values `f 0 .. f (n - 1)`, each wrapped to 16 bits (10_state.md R42). -/
def slots (n : Nat) (f : Nat → Int) : List Slot := (List.range n).map fun k => BitVec.ofInt 16 (f k)

theorem slots_zero (n : Nat) : slots n (fun _ => 0) = List.replicate n 0 := by
  simp [slots]

/-- An update adds to one of the values. -/
theorem addSlot_slots (n : Nat) (f : Nat → Int) (k : Nat) (d : Int) :
    addSlot (slots n f) k d = slots n fun j => f j + if j = k then d else 0 := by
  apply List.ext_getElem (by simp [addSlot, slots])
  intro j _ _
  by_cases hj : j = k
  · simp [addSlot, slots, hj, BitVec.ofInt_add]
  · simp [addSlot, slots, hj, List.getElem_modify_ne, Ne.symm hj]

/-- A value of the range of 43_dither.md R196 is not changed by the wrap. -/
theorem toInt_ofInt_of_slotRange {v : Int} (h : -256 ≤ v ∧ v ≤ 252) : (BitVec.ofInt 16 v).toInt = v := by
  rw [BitVec.toInt_ofInt, Int.bmod_eq_of_le] <;> omega

theorem slots_getD {n k : Nat} (f : Nat → Int) (hk : k < n) : (slots n f).getD k 0 = BitVec.ofInt 16 (f k) := by
  simp [slots, hk]

/-! ## A channel during a pass -/

/-- The line buffers, of `n` slots, `x` pixels into row `y` of a pass with residuals `e`. -/
def linesAt (n width : Nat) (e : Nat → Nat → Int) (y x : Nat) : Channel where
  cur := slots n (slotValue width e y x)
  nxt := slots n (sentDown x (e y))

/-- The line buffers at the start of a row (43_dither.md R190). -/
def nextRow (p : Params) (ch : Channel) : Channel where
  cur := ch.nxt
  nxt := List.replicate (p.maxW + 2) 0

section channel

variable (p : Params) (width : Nat) (e : Nat → Nat → Int)

theorem linesAt_first : linesAt (p.maxW + 2) width e 0 0 = Channel.zero p.maxW := by
  have hcur : slotValue width e 0 0 = fun _ => 0 := by funext k; simp [slotValue, fromAbove]
  have hnxt : sentDown 0 (e 0) = fun _ => 0 := by funext k; simp [sentDown]
  simp [linesAt, Channel.zero, hcur, hnxt, slots_zero]

/-- The first row starts with zero line buffers too. -/
theorem nextRow_zero : nextRow p (Channel.zero p.maxW) = Channel.zero p.maxW := rfl

theorem nextRow_linesAt (y : Nat) :
    nextRow p (linesAt (p.maxW + 2) width e y width) = linesAt (p.maxW + 2) width e (y + 1) 0 := by
  have hcur : slotValue width e (y + 1) 0 = sentDown width (e y) := by funext k; simp [slotValue, fromAbove]
  have hnxt : sentDown 0 (e (y + 1)) = fun _ => 0 := by funext k; simp [sentDown]
  simp [linesAt, nextRow, hcur, hnxt, slots_zero]

/-- A pixel's `Diffuse` moves the line buffers on by one pixel (43_dither.md R191). -/
theorem diffuseInto_linesAt (n y x : Nat) :
    diffuseInto x (e y x) (linesAt n width e y x) = linesAt n width e y (x + 1) := by
  have hcur : (fun k => slotValue width e y x k + if k = x + 2 then forwardTerm (e y x) else 0) =
      slotValue width e y (x + 1) := by
    funext k
    simp only [slotValue, arrived_succ, Int.add_assoc]
  have hnxt : (fun k => sentDown x (e y) k + (if k = x then backTerm (e y x) else 0) +
      (if k = x + 1 then downTerm (e y x) else 0) + if k = x + 2 then diagonalTerm (e y x) else 0) =
      sentDown (x + 1) (e y) := by
    funext k
    simp only [sentDown, arrived_succ, Nat.add_zero]
    omega
  rw [linesAt, linesAt, ← hcur, ← hnxt]
  simp only [diffuseInto, addSlot_slots]
  rfl

end channel

/-- The error a column reads is what its neighbours sent, which the 16 bits hold (43_dither.md R192, R196). -/
theorem linesAt_carried {n width y x : Nat} {e : Nat → Nat → Int} (he : ∀ y x, ResidualRange (e y x))
    (hx : x < width) (hn : width + 2 ≤ n) :
    ((linesAt n width e y x).cur.getD (x + 1) 0).toInt = receivedError width e y x := by
  rw [linesAt, slots_getD _ (by omega), toInt_ofInt_of_slotRange (slotValue_range he width y x (x + 1)),
    slotValue_eq_receivedError hx]

/-- Every slot of a channel lies in the range of 43_dither.md R196. -/
def SlotsInRange (ch : Channel) : Prop := ∀ v ∈ ch.cur ++ ch.nxt, -256 ≤ v.toInt ∧ v.toInt ≤ 252

theorem linesAt_slotsInRange {e : Nat → Nat → Int} (he : ∀ y x, ResidualRange (e y x)) (n width y x : Nat) :
    SlotsInRange (linesAt n width e y x) := by
  have hrow : ∀ f : Nat → Int, (∀ k, -256 ≤ f k ∧ f k ≤ 252) → ∀ v ∈ slots n f, -256 ≤ v.toInt ∧ v.toInt ≤ 252 := by
    intro f hf v hv
    obtain ⟨k, -, rfl⟩ := List.mem_map.1 hv
    rw [toInt_ofInt_of_slotRange (hf k)]
    exact hf k
  intro v hv
  rcases List.mem_append.1 hv with hv | hv
  · exact hrow _ (slotValue_range he width y x) v hv
  · refine hrow _ (fun k => ?_) v hv
    have := sentDown_range (n := x) (he y) k
    omega

end Sys2Proof.Machine
end

section
/-! A dithering pass over the image (43_dither.md R190): DGREY and DCOLOR are loops over rows and columns that diffuse
one residual a pixel and channel, so the line buffers stand as `linesAt` has it at every pixel. -/

namespace Sys2Proof.Machine

open Sys2Proof.Config (Params)

/-! ## What leaves the line buffers alone -/

section lines

variable (c : Chan) (w : Work)

theorem atRow_chan (i : Nat) : (w.atRow i).eng.chan c = w.eng.chan c := by cases c <;> rfl
theorem atCol_chan (i : Nat) : (w.atCol i).eng.chan c = w.eng.chan c := by cases c <;> rfl
theorem packStart_chan (base dp y : Nat) : (packStart base dp y w).eng.chan c = w.eng.chan c := by
  cases c <;> rfl
theorem packFlush_chan (v : Byte) (n : Nat) : (packFlush v n w).eng.chan c = w.eng.chan c := by cases c <;> rfl
@[simp] theorem writeBgr_eng (a : Nat) (q : Rgb) : (writeBgr a q w).eng = w.eng := rfl

@[simp] theorem packPut_chan (bits n : Nat) : (packPut bits n w).eng.chan c = w.eng.chan c := by
  obtain ⟨-, h⟩ | ⟨-, h⟩ := packPut_cases bits n w
  · rw [h, packFlush_chan]
  · rw [h]; cases c <;> rfl

@[simp] theorem packEnd_chan : (packEnd w).eng.chan c = w.eng.chan c := by
  unfold packEnd
  split
  · exact packFlush_chan c w _ _
  · rfl

@[simp] theorem carried_atCol (x i : Nat) : carried c x (w.atCol i) = carried c x w := by
  rw [carried, carried, atCol_chan]

end lines

/-! ## Passes -/

/-- A pass over the image in raster order: how a row starts, what a pixel does and how a row ends. -/
structure Pass where
  start : Nat → Work → Work
  pixel : Nat → Nat → Work → Work
  finish : Work → Work

namespace Pass

variable (P : Pass) (width : Nat) (w : Work)

/-- Row `y` of the pass. -/
def row (y : Nat) (u : Work) : Work := P.finish (forCols width (P.pixel y) (P.start y u))

/-- What the pass works on before pixel `(x, y)`. -/
def before (y x : Nat) : Work := forCols x (P.pixel y) (P.start y ((forRows y (P.row width) w).atRow y))

theorem before_zero (y : Nat) : P.before width w y 0 = P.start y ((forRows y (P.row width) w).atRow y) := rfl

theorem before_succ (y x : Nat) :
    P.before width w y (x + 1) = P.pixel y x ((P.before width w y x).atCol x) := rfl

theorem forRows_succ (y : Nat) : forRows (y + 1) (P.row width) w = P.finish (P.before width w y width) := rfl

/-- The pass diffuses `residual` on channel `c`, and does nothing else to its line buffers. -/
structure Dithers (P : Pass) (p : Params) (c : Chan) (residual : Nat → Nat → Work → Int) : Prop where
  start : ∀ y u, (P.start y u).eng.chan c = nextRow p (u.eng.chan c)
  pixel : ∀ y x u, (P.pixel y x u).eng.chan c = diffuseInto x (residual y x u) (u.eng.chan c)
  finish : ∀ u, (P.finish u).eng.chan c = u.eng.chan c
  range : ∀ y x u, ResidualRange (residual y x u)

/-- The residuals of a pass, each computed on what the pixel finds. -/
def residuals (residual : Nat → Nat → Work → Int) (y x : Nat) : Int :=
  residual y x ((P.before width w y x).atCol x)

namespace Dithers

variable {P} {p : Params} {c : Chan} {residual : Nat → Nat → Work → Int} {w}

theorem residuals_range (h : P.Dithers p c residual) (y x : Nat) :
    ResidualRange (P.residuals width w residual y x) := h.range y x _

/-- The line buffers before each pixel hold what the residuals of the earlier pixels add up to. -/
theorem lines_before (h : P.Dithers p c residual) (hw : w.eng.chan c = Channel.zero p.maxW) (y x : Nat) :
    (P.before width w y x).eng.chan c = linesAt (p.maxW + 2) width (P.residuals width w residual) y x := by
  have along : ∀ y, (P.before width w y 0).eng.chan c =
        linesAt (p.maxW + 2) width (P.residuals width w residual) y 0 →
      ∀ x, (P.before width w y x).eng.chan c = linesAt (p.maxW + 2) width (P.residuals width w residual) y x := by
    intro y h0 x
    induction x with
    | zero => exact h0
    | succ x ih => rw [before_succ, h.pixel, atCol_chan, ih]; exact diffuseInto_linesAt ..
  refine along y ?_ x
  induction y with
  | zero => rw [before_zero, h.start, atRow_chan, linesAt_first, ← nextRow_zero]; exact congrArg _ hw
  | succ y ih => rw [before_zero, h.start, atRow_chan, forRows_succ, h.finish, along y ih, nextRow_linesAt]

/-- The error a pixel reads is the error it receives from its earlier neighbours (43_dither.md R192). -/
theorem carried_before (h : P.Dithers p c residual) (hw : w.eng.chan c = Channel.zero p.maxW) {x : Nat}
    (hx : x < width) (hmax : width ≤ p.maxW) (y : Nat) :
    carried c x ((P.before width w y x).atCol x) = receivedError width (P.residuals width w residual) y x := by
  rw [carried_atCol, carried, h.lines_before width hw,
    linesAt_carried (h.residuals_range width) hx (Nat.add_le_add_right hmax 2)]

/-- After the pass every slot of the channel lies in the range of 43_dither.md R196. -/
theorem slots_in_range (h : P.Dithers p c residual) (hw : w.eng.chan c = Channel.zero p.maxW) (height : Nat) :
    SlotsInRange ((forRows height (P.row width) w).eng.chan c) := by
  cases height with
  | zero =>
    change SlotsInRange (w.eng.chan c)
    rw [hw, ← linesAt_first p width (P.residuals width w residual)]
    exact linesAt_slotsInRange (h.residuals_range width) _ _ _ _
  | succ y =>
    rw [forRows_succ, h.finish, h.lines_before width hw]
    exact linesAt_slotsInRange (h.residuals_range width) _ _ _ _

end Dithers

end Pass

@[simp] theorem ditherInit_chan (p : Params) (c d : Chan) (w : Work) :
    (ditherInit p c w).eng.chan d = if d = c then Channel.zero p.maxW else w.eng.chan d := onChan_chan c d _ w

@[simp] theorem rowStart_chan (p : Params) (c d : Chan) (w : Work) :
    (rowStart p c w).eng.chan d = if d = c then nextRow p (w.eng.chan c) else w.eng.chan d := onChan_chan c d _ w

@[simp] theorem diffuse_chan (c d : Chan) (x : Nat) (e : Int) (w : Work) :
    (diffuse c x e w).eng.chan d = if d = c then diffuseInto x e (w.eng.chan c) else w.eng.chan d :=
  onChan_chan c d _ w

/-! ## DGREY's pass -/

/-- The value DGREY dithers at a pixel (43_dither.md R193). -/
def greyValue (r : Regs) (y x : Nat) (w : Work) : Int :=
  corrected (scaledLuma (sample r w.mem x y)) (carried .c0 x w)

/-- What DGREY diffuses from a pixel (43_dither.md R193). -/
def greyResidual (r : Regs) (y x : Nat) (w : Work) : Int :=
  greyValue r y x w - greyLevel (greyBit (greyValue r y x w))

/-- DGREY as a pass (43_dither.md R193). -/
def dgreyPass (p : Params) (r : Regs) : Pass where
  start y u := packStart r.dst0Base.toNat (destPitch r.width 1) y (rowStart p .c0 u)
  pixel := dgreyPixel r
  finish := packEnd

theorem dgreyWork_eq_pass (p : Params) (r : Regs) (w : Work) :
    dgreyWork p r w = forRows r.height ((dgreyPass p r).row r.width) (ditherInit p .c0 w) := rfl

theorem dgreyPixel_eq (r : Regs) (y x : Nat) (w : Work) :
    dgreyPixel r y x w = packPut (greyBit (greyValue r y x w)) 1 (diffuse .c0 x (greyResidual r y x w) w) := rfl

theorem greyBit_eq {v : Int} (h0 : 0 ≤ v) (h : v ≤ 255) : greyBit v = (decide (128 ≤ v)).toNat := by
  rw [greyBit, asr_eq]
  by_cases hv : 128 ≤ v
  · simp only [hv, decide_true, Bool.toNat_true]; omega
  · simp only [hv, decide_false, Bool.toNat_false]; omega

/-- The residual of a value is its distance to black or white, whichever side of 128 it lies (43_dither.md R193). -/
theorem greyResidual_eq (r : Regs) (y x : Nat) (w : Work) :
    greyResidual r y x w = if 128 ≤ greyValue r y x w then greyValue r y x w - 255 else greyValue r y x w := by
  obtain ⟨h0, h255⟩ := corrected_range (scaledLuma (sample r w.mem x y)) (carried .c0 x w)
  have hbit : greyBit (greyValue r y x w) = (decide (128 ≤ greyValue r y x w)).toNat := greyBit_eq h0 h255
  rw [greyResidual, hbit]
  by_cases hv : 128 ≤ greyValue r y x w <;> simp [hv, greyLevel]

theorem dgreyPass_dithers (p : Params) (r : Regs) : (dgreyPass p r).Dithers p .c0 (greyResidual r) where
  start y u := by rw [dgreyPass, packStart_chan, rowStart_chan, if_pos rfl]
  pixel y x u := by simp [dgreyPass, dgreyPixel_eq]
  finish u := packEnd_chan .c0 u
  range y x u := by
    obtain ⟨h0, h255⟩ := corrected_range (scaledLuma (sample r u.mem x y)) (carried .c0 x u)
    rw [greyResidual_eq, ResidualRange]
    unfold greyValue
    split <;> omega

/-- DGREY leaves every slot of channel 0 in its range (43_dither.md R196). -/
theorem dgreyWork_slotsInRange (p : Params) (r : Regs) (w : Work) :
    SlotsInRange ((dgreyWork p r w).eng.chan .c0) := by
  rw [dgreyWork_eq_pass]
  exact (dgreyPass_dithers p r).slots_in_range r.width (by simp) r.height

/-- DGREY keeps the line buffers of the channels it does not use (10_state.md R42). -/
theorem dgreyWork_chan_ne (p : Params) (r : Regs) (w : Work) {c : Chan} (hc : c ≠ .c0) :
    (dgreyWork p r w).eng.chan c = w.eng.chan c := by
  have hrow : ∀ y u, (dgreyRow p r y u).eng.chan c = u.eng.chan c := by
    intro y u
    have hstart : (packStart r.dst0Base.toNat (destPitch r.width 1) y (rowStart p .c0 u)).eng.chan c =
        u.eng.chan c := by rw [packStart_chan, rowStart_chan, if_neg hc]
    rw [dgreyRow, packEnd_chan]
    refine forUpto_invariant (fun v : Work => v.eng.chan c = u.eng.chan c) hstart fun x v _ hv => ?_
    rw [dgreyPixel_eq, packPut_chan, diffuse_chan, if_neg hc, atCol_chan, hv]
  refine forUpto_invariant (fun v : Work => v.eng.chan c = w.eng.chan c) (by simp [hc]) fun y v _ hv => ?_
  rw [hrow, atRow_chan, hv]

/-! ## DCOLOR's pass -/

/-- The component of a colour that an error channel carries (10_state.md R42). -/
def Rgb.part (q : Rgb) : Chan → Byte
  | .c0 => q.r
  | .c1 => q.g
  | .c2 => q.b

/-- The value DCOLOR dithers at a pixel in channel `c` (43_dither.md R195). -/
def colourValue (r : Regs) (c : Chan) (y x : Nat) (w : Work) : Int :=
  corrected ((sample r w.mem x y).part c).toNat (carried c x w)

/-- The colour DCOLOR writes at a pixel (43_dither.md R195). -/
def matchedColour (m : Mode) (r : Regs) (y x : Nat) (w : Work) : Rgb :=
  symColour m r (matchSymbol m r
    { r := component (colourValue r .c0 y x w)
      g := component (colourValue r .c1 y x w)
      b := component (colourValue r .c2 y x w) })

/-- What DCOLOR diffuses from a pixel in channel `c` (43_dither.md R195). -/
def colourResidual (m : Mode) (r : Regs) (c : Chan) (y x : Nat) (w : Work) : Int :=
  colourValue r c y x w - ((matchedColour m r y x w).part c).toNat

/-- Where DCOLOR writes pixel `(x, y)` (43_dither.md R195). -/
def pixelAddr (r : Regs) (y x : Nat) : Nat := imageRowAddr r y + bytesPerPixel r * x

/-- DCOLOR as a pass (43_dither.md R195). -/
def dcolorPass (m : Mode) (p : Params) (r : Regs) : Pass where
  start _ u := rowStart p .c2 (rowStart p .c1 (rowStart p .c0 u))
  pixel := dcolorPixel m r
  finish := id

/-- The line buffers with which DCOLOR starts (43_dither.md R190). -/
def dcolorInit (p : Params) (w : Work) : Work := ditherInit p .c2 (ditherInit p .c1 (ditherInit p .c0 w))

theorem dcolorWork_eq_pass (m : Mode) (p : Params) (r : Regs) (w : Work) :
    dcolorWork m p r w = forRows r.height ((dcolorPass m p r).row r.width) (dcolorInit p w) := rfl

theorem dcolorPixel_eq (m : Mode) (r : Regs) (y x : Nat) (w : Work) :
    dcolorPixel m r y x w = writeBgr (pixelAddr r y x) (matchedColour m r y x w)
      (diffuse .c2 x (colourResidual m r .c2 y x w)
        (diffuse .c1 x (colourResidual m r .c1 y x w) (diffuse .c0 x (colourResidual m r .c0 y x w) w))) := rfl

theorem dcolorInit_chan (p : Params) (c : Chan) (w : Work) :
    (dcolorInit p w).eng.chan c = Channel.zero p.maxW := by
  cases c <;> simp [dcolorInit]

theorem dcolorPass_dithers (m : Mode) (p : Params) (r : Regs) (c : Chan) :
    (dcolorPass m p r).Dithers p c (colourResidual m r c) where
  start y u := by cases c <;> simp [dcolorPass]
  pixel y x u := by cases c <;> simp [dcolorPass, dcolorPixel_eq]
  finish u := rfl
  range y x u := by
    have hv := corrected_range ((sample r u.mem x y).part c).toNat (carried c x u)
    have hq := ((matchedColour m r y x u).part c).isLt
    unfold ResidualRange colourResidual colourValue
    omega

/-- DCOLOR leaves every slot of every channel in its range (43_dither.md R196). -/
theorem dcolorWork_slotsInRange (m : Mode) (p : Params) (r : Regs) (w : Work) (c : Chan) :
    SlotsInRange ((dcolorWork m p r w).eng.chan c) := by
  rw [dcolorWork_eq_pass]
  exact (dcolorPass_dithers m p r c).slots_in_range r.width (dcolorInit_chan p c w) r.height

/-! ## What the commands run -/

/-- A DCOLOR that passes V4 is in a mode that is not reserved (40_command.md R123). -/
theorem dcolor_mode {r : Regs} (h : configUnsupported r .dcolor = false) : ∃ m, modeOf r.mode = some m := by
  cases hm : modeOf r.mode with
  | some m => exact ⟨m, rfl⟩
  | none => simp [configUnsupported, hm] at h

theorem dcolorEffect_of_mode {s : State} {m : Mode} (hm : modeOf s.regs.mode = some m) :
    dcolorEffect s = s.runWork (dcolorWork m) := by simp only [dcolorEffect, hm]

/-- A command that ends without ERR passed its checks (60_exceptions.md R300). -/
theorem exec_of_no_error {i : Instr} {s t : State} (h : exec i s = .next t) (ht : t.status.err = false) :
    validate s.params s.regs i = none ∧ t = complete (effectOf i s) := by
  rw [exec_eq] at h
  obtain ⟨e, -, rfl⟩ | hpass := runCommand_cases h
  · cases ht
  · exact hpass

end Sys2Proof.Machine

namespace Sys2Proof.Proofs

open Sys2Proof.Machine

/-- Settles O35: a command that ends without ERR passed its checks, and a pass leaves every slot in its range. -/
theorem noSlotLeavesItsRange : Obligations.NoSlotLeavesItsRange := by
  intro s t _ ht
  constructor
  · intro h
    obtain ⟨-, rfl⟩ := exec_of_no_error h ht
    exact dgreyWork_slotsInRange s.params s.regs s.work
  · intro h
    obtain ⟨hv, rfl⟩ := exec_of_no_error h ht
    obtain ⟨m, hm⟩ := dcolor_mode (validate_eq_none.1 hv).2.1
    have hrange : ∀ c, SlotsInRange ((dcolorWork m s.params s.regs s.work).eng.chan c) :=
      dcolorWork_slotsInRange m s.params s.regs s.work
    have h0 := hrange .c0
    have h1 := hrange .c1
    have h2 := hrange .c2
    simp only [SlotsInRange, List.forall_mem_append] at h0 h1 h2
    simp only [complete_eng, effectOf, dcolorEffect_of_mode hm, runWork_eng, endCommand_ch0, endCommand_ch1,
      endCommand_ch2, List.forall_mem_append]
    exact ⟨⟨⟨⟨h0, h1.1⟩, h1.2⟩, h2.1⟩, h2.2⟩

end Sys2Proof.Proofs
end

section
/-! DGREY (43_dither.md R193, R194): what the packer leaves of a row of single bits, plane 0 row by row, and the pixels
of a source that the plane does not overlap. -/

namespace Sys2Proof.Machine

open Sys2Proof.Config (Params)

/-! ## A row of single bits -/

/-- Bits of a row after one of its bytes is written. -/
theorem rowBit_write (m : Mem) (start q i : Nat) (v : Byte) :
    rowBit (Mem.write m (start + q) v) start i = if i / 8 = q then v.getLsbD (7 - i % 8) else rowBit m start i := by
  simp only [rowBit, Mem.read_write, Nat.add_left_cancel_iff]
  split <;> rfl

/-- A bit put below the bits that wait (44_packer.md R222). -/
theorem getLsbD_shiftIn (acc : Byte) (b : Bool) {j : Nat} (hj : j < 8) :
    (acc <<< 1 ||| BitVec.ofNat 8 b.toNat).getLsbD j = if j = 0 then b else acc.getLsbD (j - 1) := by
  have hb : ∀ (b : Bool) (j : Fin 8), (BitVec.ofNat 8 b.toNat).getLsbD j = (decide (j.val = 0) && b) := by decide
  have hbj := hb b ⟨j, hj⟩
  simp only at hbj
  rw [BitVec.getLsbD_or, BitVec.getLsbD_shiftLeft, hbj]
  rcases j with _ | j
  · simp
  · simp [hj]

/-- The packer after `k` bits of a row of single bits at `start`, on a memory that was `m` (44_packer.md R222): the whole
bytes are written, the last bits wait in `ACC`, the last of all lowest. -/
structure PackedBits (start k : Nat) (bit : Nat → Bool) (m : Mem) (w : Work) : Prop where
  place : PackerAt start k w
  waiting : ∀ j, j < k % 8 → w.eng.acc.getLsbD j = bit (k - 1 - j)
  written : ∀ i, i < 8 * (k / 8) → rowBit w.mem start i = bit i
  kept : ∀ a, ¬(start ≤ a ∧ a < start + k / 8) → Mem.read w.mem a = Mem.read m a

namespace PackedBits

variable {start k : Nat} {bit : Nat → Bool} {m : Mem} {w : Work}

theorem of_packStart (base dp y : Nat) (bit : Nat → Bool) (w : Work) :
    PackedBits (base + y * dp) 0 bit w.mem (packStart base dp y w) where
  place := packStart_at base dp y w
  waiting := nofun
  written := nofun
  kept _ _ := rfl

/-- The cursor and the line buffers do not show in the packer. -/
theorem congr {v : Work} (h : PackedBits start k bit m w) (hm : v.mem = w.mem) (hacc : v.eng.acc = w.eng.acc)
    (hnb : v.eng.nb = w.eng.nb) (haddr : v.eng.addr = w.eng.addr) : PackedBits start k bit m v where
  place := ⟨haddr.trans h.place.addr, hnb.trans h.place.nb⟩
  waiting := hacc ▸ h.waiting
  written := hm ▸ h.written
  kept := hm ▸ h.kept

/-- The bits of the accumulator once the next bit is in it. -/
theorem waiting_shiftIn (h : PackedBits start k bit m w) {j : Nat} (hj : j < k % 8 + 1) :
    (w.eng.acc <<< 1 ||| BitVec.ofNat 8 (bit k).toNat).getLsbD j = bit (k - j) := by
  rw [getLsbD_shiftIn _ _ (by omega)]
  split
  · rename_i h0; rw [h0, Nat.sub_zero]
  · rw [h.waiting _ (by omega)]; congr 1; omega

/-- `PackPut` of the next bit. -/
theorem packPut (h : PackedBits start k bit m w) :
    PackedBits start (k + 1) bit m (Machine.packPut (bit k).toNat 1 w) := by
  have hplace := packPut_at (bits := (bit k).toNat) h.place (by omega) Nat.one_pos
  have hnb := h.place.nb
  obtain ⟨hfull, he⟩ | ⟨hpart, he⟩ := packPut_cases (bit k).toNat 1 w
  · have hbyte : (k + 1) / 8 = k / 8 + 1 := by omega
    refine ⟨hplace, fun j hj => by omega, fun i hi => ?_, fun a ha => ?_⟩
    · rw [he, packFlush_mem, h.place.addr, rowBit_write]
      split
      · rw [h.waiting_shiftIn (by omega)]; congr 1; omega
      · exact h.written i (by omega)
    · rw [he, packFlush_mem, h.place.addr, Mem.read_write_ne _ _ (by omega), h.kept a (by omega)]
  · have hbyte : (k + 1) / 8 = k / 8 := by omega
    refine ⟨hplace, fun j hj => ?_, fun i hi => ?_, fun a ha => ?_⟩
    · rw [he]; exact h.waiting_shiftIn (by omega)
    · rw [he]; exact h.written i (by omega)
    · rw [he]; exact h.kept a (by omega)

/-- The end of a row: its bits stand in whole bytes, pad bits 0, and no other byte changed (44_packer.md R222). -/
theorem packEnd (h : PackedBits start k bit m w) :
    (∀ i, i < 8 * ceilDiv k 8 → rowBit (Machine.packEnd w).mem start i = (decide (i < k) && bit i)) ∧
      ∀ a, ¬(start ≤ a ∧ a < start + ceilDiv k 8) → Mem.read (Machine.packEnd w).mem a = Mem.read m a := by
  have hnb := h.place.nb
  unfold Machine.packEnd ceilDiv
  split
  · rw [packFlush_mem, h.place.addr]
    constructor
    · intro i hi
      rw [rowBit_write]
      split
      · rw [BitVec.getLsbD_shiftLeft]
        by_cases hik : i < k
        · rw [h.waiting _ (by omega)]
          have hbit : k - 1 - (7 - i % 8 - (8 - w.eng.nb)) = i := by omega
          have hlow : ¬(7 - i % 8 < 8 - w.eng.nb) := by omega
          have hbyte : 7 - i % 8 < 8 := by omega
          simp [hik, hbit, hlow, hbyte]
        · have hlow : 7 - i % 8 < 8 - w.eng.nb := by omega
          simp [hik, hlow]
      · have hik : i < k := by omega
        simp [hik, h.written i (by omega)]
    · intro a ha
      rw [Mem.read_write_ne _ _ (by omega), h.kept a (by omega)]
  · constructor
    · intro i hi
      have hik : i < k := by omega
      simp [hik, h.written i (by omega)]
    · exact fun a ha => h.kept a (by omega)

end PackedBits

/-! ## Plane 0 -/

theorem destPitch_one (width : Nat) : destPitch width 1 = ceilDiv width 8 := by rw [destPitch, Nat.mul_one]

section plane

variable (p : Params) (r : Regs) (w : Work)

/-- What DGREY works on before pixel `(x, y)`. -/
def dgreyBefore (y x : Nat) : Work := (dgreyPass p r).before r.width (ditherInit p .c0 w) y x

/-- What DGREY works on before row `y`. -/
def dgreyRows (y : Nat) : Work := forRows y ((dgreyPass p r).row r.width) (ditherInit p .c0 w)

/-- The value DGREY dithers at pixel `(x, y)`, on what it finds there. -/
def greyValueAt (y x : Nat) : Int := greyValue r y x ((dgreyBefore p r w y x).atCol x)

/-- The bit DGREY puts for pixel `(x, y)`. -/
def greyBitAt (y x : Nat) : Bool := decide (128 ≤ greyValueAt p r w y x)

/-- DGREY's residuals. -/
def greyResidualAt : Nat → Nat → Int := (dgreyPass p r).residuals r.width (ditherInit p .c0 w) (greyResidual r)

theorem greyResidualAt_eq (y x : Nat) :
    greyResidualAt p r w y x =
      if 128 ≤ greyValueAt p r w y x then greyValueAt p r w y x - 255 else greyValueAt p r w y x :=
  greyResidual_eq r y x _

theorem dgreyRows_succ (y : Nat) : dgreyRows p r w (y + 1) = packEnd (dgreyBefore p r w y r.width) := rfl

/-- The packer holds the bits of the row's earlier pixels. -/
theorem dgreyBefore_packed (y x : Nat) :
    PackedBits (r.dst0Base.toNat + y * destPitch r.width 1) x (greyBitAt p r w y) (dgreyRows p r w y).mem
      (dgreyBefore p r w y x) := by
  induction x with
  | zero => exact PackedBits.of_packStart _ _ _ _ (rowStart p .c0 ((dgreyRows p r w y).atRow y))
  | succ x ih =>
    let u := (dgreyBefore p r w y x).atCol x
    have hbit : greyBit (greyValue r y x u) = (greyBitAt p r w y x).toNat :=
      greyBit_eq (corrected_range _ _).1 (corrected_range _ _).2
    have hpixel : dgreyBefore p r w y (x + 1) =
        packPut (greyBitAt p r w y x).toNat 1 (diffuse .c0 x (greyResidual r y x u) u) :=
      (dgreyPixel_eq r y x u).trans (by rw [hbit])
    rw [hpixel]
    exact (ih.congr (v := diffuse .c0 x (greyResidual r y x u) u) rfl (by simp [diffuse, u]) (by simp [diffuse, u])
      (by simp [diffuse, u])).packPut

/-- After `y` rows the plane holds their bits, pad bits 0, and no byte outside those rows changed. -/
theorem dgreyRows_plane (y : Nat) :
    (∀ j i, j < y → i < 8 * destPitch r.width 1 →
        rowBit (dgreyRows p r w y).mem (r.dst0Base.toNat + j * destPitch r.width 1) i =
          (decide (i < r.width) && greyBitAt p r w j i)) ∧
      ∀ a, ¬(r.dst0Base.toNat ≤ a ∧ a < r.dst0Base.toNat + y * destPitch r.width 1) →
        Mem.read (dgreyRows p r w y).mem a = Mem.read w.mem a := by
  induction y with
  | zero => exact ⟨nofun, fun _ _ => rfl⟩
  | succ y ih =>
    obtain ⟨hbits, hkept⟩ := ih
    obtain ⟨hrow, hother⟩ := (dgreyBefore_packed p r w y r.width).packEnd
    rw [← destPitch_one, ← dgreyRows_succ] at hrow hother
    have hend : (y + 1) * destPitch r.width 1 = y * destPitch r.width 1 + destPitch r.width 1 := Nat.succ_mul ..
    constructor
    · intro j i hj hi
      rcases Nat.lt_succ_iff_lt_or_eq.1 hj with hlt | rfl
      · have hbefore : (j + 1) * destPitch r.width 1 ≤ y * destPitch r.width 1 := Nat.mul_le_mul_right _ hlt
        rw [Nat.succ_mul] at hbefore
        rw [rowBit, hother _ (by omega)]
        exact hbits j i hlt hi
      · exact hrow i hi
    · intro a ha
      rw [hother a (by omega), hkept a (by omega)]

/-- A byte outside plane 0 is as it was before every pixel of the image. -/
theorem dgreyBefore_read {y x a : Nat} (hy : y < r.height) (hx : x < r.width)
    (ha : ¬(plane0Region r (destPitch r.width 1)).Has a) :
    Mem.read (dgreyBefore p r w y x).mem a = Mem.read w.mem a := by
  have hrow : ∀ k, k ≤ x / 8 → (plane0Region r (destPitch r.width 1)).Has
      (r.dst0Base.toNat + y * destPitch r.width 1 + k) :=
    fun k hk => row_byte_in hy (by rw [destPitch_eq]; omega)
  have hfirst := hrow 0 (Nat.zero_le _)
  have hlast := hrow (x / 8) le_rfl
  simp only [Region.Has, plane0Region] at ha hfirst hlast
  rw [(dgreyBefore_packed p r w y x).kept a (by omega), (dgreyRows_plane p r w y).2 a (by omega)]

/-- DGREY dithers two thirds of the luma of the pixel the source held (43_dither.md R193, R194). -/
theorem greyValueAt_eq {y x : Nat} (hmax : r.width ≤ p.maxW) (hp : pitchOk r = true) (hy : y < r.height)
    (hx : x < r.width) (hapart : ∀ a, (srcRegion r).Has a → ¬(plane0Region r (destPitch r.width 1)).Has a) :
    greyValueAt p r w y x =
      clip ((scaledLuma (sample r w.mem x y) : Int) + receivedError r.width (greyResidualAt p r w) y x) := by
  have hsample : sample r ((dgreyBefore p r w y x).atCol x).mem x y = sample r w.mem x y :=
    sample_congr hp hx hy fun a ha => dgreyBefore_read p r w hy hx (hapart a ha)
  have hcarried : carried .c0 x ((dgreyBefore p r w y x).atCol x) =
      receivedError r.width (greyResidualAt p r w) y x :=
    (dgreyPass_dithers p r).carried_before r.width (by simp) hx hmax y
  rw [greyValueAt, greyValue, hsample, hcarried, corrected, clamp_eq]

end plane

/-! ## DGREY as a command -/

/-- Unpacking single bits is reading the bits of a row (44_packer.md R227). -/
theorem unpack_one (m : Mem) (base dp x y : Nat) : unpack m base dp 1 x y = (rowBit m (base + y * dp) x).toNat := by
  simp only [unpack, rowBit, Nat.mul_one, BitVec.getLsbD, Nat.toNat_testBit]
  rfl

/-- A plane that passes V8 has no byte of region SRC (20_memory.md R72). -/
theorem Plane0Ready.source_apart {s : State} (h : Plane0Ready s 1) (a : Nat) (ha : (srcRegion s.regs).Has a) :
    ¬(plane0Region s.regs (destPitch s.regs.width 1)).Has a := fun hplane =>
  h.apart ⟨ha.1.trans_lt hplane.2, hplane.1.trans_lt ha.2⟩

/-- DGREY of a ready source and plane in BINARY passes its checks (43_dither.md R193). -/
theorem validate_dgrey {s : State} (hmode : s.regs.mode = 0) (hsource : SourceReady s) (hplane : Plane0Ready s 1)
    (hmax : s.regs.srcWidth.toNat ≤ s.params.maxW) : validate s.params s.regs .dgrey = none := by
  obtain ⟨hvalid, hpitch, hregion⟩ := hsource.checks
  have hbinary : modeOf s.regs.mode = some .binary := by rw [hmode]; rfl
  have hconfig : configUnsupported s.regs .dgrey = false := by simp [configUnsupported, hbinary]
  have hregions : ∀ g ∈ checkedRegions s.regs .dgrey, g.base + g.size ≤ s.params.memSize := by
    simp only [checkedRegions, readRegions, writeRegions, bpsOf_binary hbinary, List.cons_append, List.nil_append,
      List.forall_mem_cons]
    exact ⟨hregion, hplane.inMemory, nofun⟩
  have hseparate : anyOverlap (separateRegions s.regs .dgrey) = false := by
    simp only [separateRegions, bpsOf_binary hbinary, anyOverlap_eq_false_iff, List.map_cons, List.map_nil,
      List.pairwise_pair]
    exact hplane.apart
  exact validate_eq_none.2 ⟨fun _ => ⟨hvalid, hpitch⟩, hconfig, fun _ => hmax, rfl, hregions, hseparate⟩

end Sys2Proof.Machine

namespace Sys2Proof.Proofs

open Sys2Proof.Machine

/-- Settles O32: the residuals are those the pass diffuses; the plane is read off the packer row by row, and the values
off the line buffers, pixel by pixel. -/
theorem dgreyDiffusesTheError : Obligations.DgreyDiffusesTheError := by
  intro s hmode hsource hplane hmax
  have hpitch := hsource.checks.2.1
  have hdp : destPitch s.regs.width 1 = (s.regs.srcWidth.toNat + 7) / 8 := by
    rw [destPitch_eq, Nat.mul_one]; rfl
  obtain ⟨hbits, hkept⟩ := dgreyRows_plane s.params s.regs s.work s.regs.height
  rw [hdp] at hbits hkept
  refine ⟨complete (dgreyEffect s), greyResidualAt s.params s.regs s.work,
    exec_of_passed (validate_dgrey hmode hsource hplane hmax), ?completed, ?green, ?blue, ?outside, ?pad, ?pixels⟩
  case completed =>
    simp only [← hdp]
    simp [CompletedWith, complete, dgreyEffect, publishPlanes, State.runWork, Regs.height]
  case green => exact dgreyWork_chan_ne s.params s.regs s.work (c := .c1) (by decide)
  case blue => exact dgreyWork_chan_ne s.params s.regs s.work (c := .c2) (by decide)
  case outside =>
    intro a ha
    refine hkept a ?_
    rwa [planeSize, Nat.mul_one, Nat.mul_comm] at ha
  case pad =>
    intro y k hy hwk hk
    refine (hbits y k hy hk).trans ?_
    simp [Regs.width, Nat.not_lt.2 hwk]
  case pixels =>
    intro y x hy hx c v
    have hv : greyValueAt s.params s.regs s.work y x = v := by
      rw [greyValueAt_eq s.params s.regs s.work hmax hpitch hy hx hplane.source_apart, scaledLuma, luma]
      push_cast
      rfl
    have hbit := hbits y x hy (by omega)
    constructor
    · refine (unpack_one ..).trans ((congrArg Bool.toNat hbit).trans ?_)
      by_cases hwhite : 128 ≤ v <;> simp [Regs.width, hx, greyBitAt, hv, hwhite]
    · rw [greyResidualAt_eq, hv]

end Sys2Proof.Proofs
end

section
/-! DCOLOR (43_dither.md R195): the pixels of a 24- or 32-bpp source have bytes of their own, so a pixel finds the bytes
the source held and keeps the colour it is rewritten with. -/

namespace Sys2Proof.Machine

open Sys2Proof.Config (Params)

/-! ## The bytes of a pixel -/

/-- A source of whole-byte pixels whose pitch holds its rows. -/
structure BytePixels (r : Regs) : Prop where
  depth : bppOf r.srcBpp = some .b24 ∨ bppOf r.srcBpp = some .b32
  pitch : pitchOk r = true

/-- The bytes of the pixels of a row are bytes of the row. -/
theorem BytePixels.byte_in_row {r : Regs} (h : BytePixels r) {x j : Nat} (hx : x < r.width) (hj : j < 3) :
    bytesPerPixel r * x + j < r.pitch := by
  rcases h.depth with hd | hd <;> have hw := pitchOk_holds_row h.pitch hd <;>
    simp only [bytesPerPixel, bppOf_bits hd, Bpp.bits] at hw ⊢ <;> omega

theorem BytePixels.three_le {r : Regs} (h : BytePixels r) : 3 ≤ bytesPerPixel r := by
  rcases h.depth with hd | hd <;> simp [bytesPerPixel, bppOf_bits hd, Bpp.bits]

/-- A byte at an offset inside a row of `n` bytes fixes its row and its offset. -/
theorem row_offset_inj {n a b i j : Nat} (hi : i < n) (hj : j < n) (h : a * n + i = b * n + j) : a = b ∧ i = j := by
  have hdiv : (a * n + i) / n = (b * n + j) / n := by rw [h]
  have hmod : (a * n + i) % n = (b * n + j) % n := by rw [h]
  have hn : 0 < n := by omega
  rw [Nat.mul_comm a, Nat.mul_comm b, Nat.mul_add_div hn, Nat.mul_add_div hn, Nat.div_eq_of_lt hi,
    Nat.div_eq_of_lt hj] at hdiv
  rw [Nat.mul_add_mod', Nat.mul_add_mod', Nat.mod_eq_of_lt hi, Nat.mod_eq_of_lt hj] at hmod
  exact ⟨hdiv, hmod⟩

/-- A colour byte belongs to one pixel and one component. -/
theorem pixelAddr_inj {r : Regs} (h : BytePixels r) {y y' x x' j j' : Nat} (hy : y < r.height) (hy' : y' < r.height)
    (hx : x < r.width) (hx' : x' < r.width) (hj : j < 3) (hj' : j' < 3)
    (heq : pixelAddr r y x + j = pixelAddr r y' x' + j') : y = y' ∧ x = x' ∧ j = j' := by
  simp only [pixelAddr, imageRowAddr, rowAddr, Nat.add_assoc, Nat.add_left_cancel_iff] at heq
  obtain ⟨hrow, hoffset⟩ := row_offset_inj (h.byte_in_row hx hj) (h.byte_in_row hx' hj') heq
  have hthree := h.three_le
  rw [Nat.mul_comm _ x, Nat.mul_comm _ x'] at hoffset
  obtain ⟨hcol, hpart⟩ := row_offset_inj (hj.trans_le hthree) (hj'.trans_le hthree) hoffset
  have hstorage := congrArg (storageRow r.topdown r.height) hrow
  rw [storageRow_storageRow hy, storageRow_storageRow hy'] at hstorage
  exact ⟨hstorage, hcol, hpart⟩

/-- The Pixel Sampler reads the three colour bytes of the pixel (41_sampler.md R144, R145). -/
theorem sample_pixelAddr {r : Regs} (h : BytePixels r) (m : Mem) (x y : Nat) :
    sample r m x y =
      { r := Mem.read m (pixelAddr r y x + 2), g := Mem.read m (pixelAddr r y x + 1),
        b := Mem.read m (pixelAddr r y x) } := by
  rcases h.depth with hd | hd <;> simp only [sample, hd, sampleBgr, pixelAddr, bytesPerPixel, bppOf_bits hd, Bpp.bits]

/-- The components of a colour in the order of their bytes: blue, green, red (43_dither.md R195). -/
def Rgb.byteAt (q : Rgb) : Nat → Byte
  | 0 => q.b
  | 1 => q.g
  | _ => q.r

/-- The bytes of a colour that was written. -/
theorem writeBgr_read (a : Nat) (q : Rgb) (w : Work) {j : Nat} (hj : j < 3) :
    Mem.read (writeBgr a q w).mem (a + j) = q.byteAt j := by
  have hcases : j = 0 ∨ j = 1 ∨ j = 2 := by omega
  rcases hcases with rfl | rfl | rfl <;> simp [writeBgr, Mem.read_write, Rgb.byteAt]

/-- A colour that is written changes its three bytes alone. -/
theorem writeBgr_read_ne (q : Rgb) (w : Work) {a b : Nat} (h : ∀ j, j < 3 → b ≠ a + j) :
    Mem.read (writeBgr a q w).mem b = Mem.read w.mem b :=
  (writeBgr_via (P := fun c => ∃ j, j < 3 ∧ c = a + j) q fun j hj => ⟨j, hj, rfl⟩).read_outside
    fun ⟨j, hj, hb⟩ => h j hj hb

/-! ## Rewritten pixels -/

/-- Pixel `(x', y')` comes before pixel `(x, y)` in raster order (43_dither.md R190). -/
def Earlier (y x y' x' : Nat) : Prop := y' < y ∨ y' = y ∧ x' < x

/-- Memory `m` is `m0` with the pixels of `Done` rewritten: pixel `(x, y)` holds the colour `q y x`, and every byte that
is no colour byte of such a pixel is as it was. -/
structure Painted (r : Regs) (q : Nat → Nat → Rgb) (Done : Nat → Nat → Prop) (m0 m : Mem) : Prop where
  colour : ∀ y x j, Done y x → y < r.height → x < r.width → j < 3 →
    Mem.read m (pixelAddr r y x + j) = (q y x).byteAt j
  kept : ∀ a, (∀ y x j, Done y x → y < r.height → x < r.width → j < 3 → a ≠ pixelAddr r y x + j) →
    Mem.read m a = Mem.read m0 a

namespace Painted

variable {r : Regs} {q : Nat → Nat → Rgb} {Done Done' : Nat → Nat → Prop} {m0 : Mem} {w : Work}

/-- Which pixels outside the image count as rewritten does not matter. -/
theorem congr {m : Mem} (h : Painted r q Done m0 m)
    (hd : ∀ y x, y < r.height → x < r.width → (Done' y x ↔ Done y x)) : Painted r q Done' m0 m where
  colour y x j hdone hy hx := h.colour y x j ((hd y x hy hx).1 hdone) hy hx
  kept a ha := h.kept a fun y x j hdone hy hx => ha y x j ((hd y x hy hx).2 hdone) hy hx

/-- A pixel that is not rewritten yet holds what it held. -/
theorem read_pending {m : Mem} (h : Painted r q Done m0 m) (hr : BytePixels r) {y x j : Nat} (hy : y < r.height)
    (hx : x < r.width) (hj : j < 3) (hd : ¬Done y x) :
    Mem.read m (pixelAddr r y x + j) = Mem.read m0 (pixelAddr r y x + j) := by
  refine h.kept _ fun y' x' j' hdone hy' hx' hj' heq => hd ?_
  obtain ⟨rfl, rfl, -⟩ := pixelAddr_inj hr hy hy' hx hx' hj hj' heq
  exact hdone

theorem sample_pending {m : Mem} (h : Painted r q Done m0 m) (hr : BytePixels r) {y x : Nat} (hy : y < r.height)
    (hx : x < r.width) (hd : ¬Done y x) : sample r m x y = sample r m0 x y := by
  have hbyte : ∀ j, j < 3 → Mem.read m (pixelAddr r y x + j) = Mem.read m0 (pixelAddr r y x + j) :=
    fun j hj => h.read_pending hr hy hx hj hd
  have hblue := hbyte 0 (by omega)
  rw [Nat.add_zero] at hblue
  rw [sample_pixelAddr hr, sample_pixelAddr hr, hbyte 2 (by omega), hbyte 1 (by omega), hblue]

/-- Rewriting one more pixel. -/
theorem writeBgr (h : Painted r q Done m0 w.mem) (hr : BytePixels r) {y x : Nat} (hy : y < r.height)
    (hx : x < r.width) :
    Painted r q (fun y' x' => Done y' x' ∨ y' = y ∧ x' = x) m0 (Machine.writeBgr (pixelAddr r y x) (q y x) w).mem where
  colour y' x' j hdone hy' hx' hj := by
    by_cases hsame : y' = y ∧ x' = x
    · obtain ⟨rfl, rfl⟩ := hsame
      exact writeBgr_read _ _ _ hj
    · rw [writeBgr_read_ne _ _ fun j' hj' heq => ?_]
      · exact h.colour y' x' j (hdone.resolve_right hsame) hy' hx' hj
      · obtain ⟨hyy, hxx, -⟩ := pixelAddr_inj hr hy' hy hx' hx hj hj' heq
        exact hsame ⟨hyy, hxx⟩
  kept a ha := by
    rw [writeBgr_read_ne _ _ fun j hj => ha y x j (.inr ⟨rfl, rfl⟩) hy hx hj]
    exact h.kept a fun y' x' j hdone => ha y' x' j (.inl hdone)

end Painted

/-! ## The image after the pass -/

section image

variable (m : Mode) (p : Params) (r : Regs) (w : Work)

/-- What DCOLOR works on before pixel `(x, y)`. -/
def dcolorBefore (y x : Nat) : Work := (dcolorPass m p r).before r.width (dcolorInit p w) y x

/-- What DCOLOR works on before row `y`. -/
def dcolorRows (y : Nat) : Work := forRows y ((dcolorPass m p r).row r.width) (dcolorInit p w)

/-- The colour DCOLOR writes at pixel `(x, y)`, on what it finds there. -/
def matchedColourAt (y x : Nat) : Rgb := matchedColour m r y x ((dcolorBefore m p r w y x).atCol x)

/-- DCOLOR's residuals in channel `c`. -/
def colourResidualAt (c : Chan) : Nat → Nat → Int :=
  (dcolorPass m p r).residuals r.width (dcolorInit p w) (colourResidual m r c)

variable {m p r w}

/-- Before each pixel of a row the earlier pixels are rewritten, if they were so before the row. -/
theorem dcolorBefore_painted_of_rows (hr : BytePixels r) {y : Nat} (hy : y < r.height)
    (h : Painted r (matchedColourAt m p r w) (Earlier y 0) w.mem (dcolorRows m p r w y).mem) {x : Nat}
    (hx : x ≤ r.width) :
    Painted r (matchedColourAt m p r w) (Earlier y x) w.mem (dcolorBefore m p r w y x).mem := by
  induction x with
  | zero => exact h
  | succ x ih =>
    have hpixel := (ih (Nat.le_of_succ_le hx)).writeBgr hr hy hx
    refine Painted.congr hpixel fun y' x' _ _ => ?_
    simp only [Earlier]
    omega

/-- Before each row the earlier rows are rewritten. -/
theorem dcolorRows_painted (hr : BytePixels r) {y : Nat} (hy : y ≤ r.height) :
    Painted r (matchedColourAt m p r w) (Earlier y 0) w.mem (dcolorRows m p r w y).mem := by
  induction y with
  | zero => exact ⟨fun y x j h => by simp [Earlier] at h, fun _ _ => rfl⟩
  | succ y ih =>
    refine (dcolorBefore_painted_of_rows hr hy (ih (Nat.le_of_succ_le hy)) le_rfl).congr fun y' x' _ hx' => ?_
    simp only [Earlier]
    omega

theorem dcolorBefore_painted (hr : BytePixels r) {y x : Nat} (hy : y < r.height) (hx : x ≤ r.width) :
    Painted r (matchedColourAt m p r w) (Earlier y x) w.mem (dcolorBefore m p r w y x).mem :=
  dcolorBefore_painted_of_rows hr hy (dcolorRows_painted hr hy.le) hx

/-- DCOLOR dithers the components of the pixel the source held (43_dither.md R195). -/
theorem colourValue_eq (hr : BytePixels r) (hmax : r.width ≤ p.maxW) (c : Chan) {y x : Nat} (hy : y < r.height)
    (hx : x < r.width) :
    colourValue r c y x ((dcolorBefore m p r w y x).atCol x) =
      clip ((((sample r w.mem x y).part c).toNat : Int) +
        receivedError r.width (colourResidualAt m p r w c) y x) := by
  have hpending : ¬Earlier y x y x := by simp [Earlier]
  have hsample : sample r ((dcolorBefore m p r w y x).atCol x).mem x y = sample r w.mem x y :=
    (dcolorBefore_painted hr hy hx.le).sample_pending hr hy hx hpending
  have hcarried : carried c x ((dcolorBefore m p r w y x).atCol x) =
      receivedError r.width (colourResidualAt m p r w c) y x :=
    (dcolorPass_dithers m p r c).carried_before r.width (dcolorInit_chan p c w) hx hmax y
  rw [colourValue, hsample, hcarried, corrected, clamp_eq]

end image

/-! ## DCOLOR as a command -/

/-- DCOLOR of a ready source passes its checks in its modes and depths (43_dither.md R195). -/
theorem validate_dcolor {s : State} {m : Mode} (hm : modeOf s.regs.mode = some m)
    (hmode : m = .bwr ∨ m = .bwy ∨ m = .bwyr) (hsource : SourceReady s)
    (hdepth : bppOf s.regs.srcBpp = some .b24 ∨ bppOf s.regs.srcBpp = some .b32)
    (hmax : s.regs.srcWidth.toNat ≤ s.params.maxW) : validate s.params s.regs .dcolor = none := by
  obtain ⟨hvalid, hpitch, hregion⟩ := hsource.checks
  have hconfig : configUnsupported s.regs .dcolor = false := by
    simp only [configUnsupported, hm, Bool.or_eq_false_iff, Bool.not_eq_false', Bool.or_eq_true, beq_iff_eq,
      Option.some.injEq]
    exact ⟨or_assoc.2 hmode, hdepth⟩
  have hregions : ∀ g ∈ checkedRegions s.regs .dcolor, g.base + g.size ≤ s.params.memSize := by
    simpa [checkedRegions, readRegions, writeRegions] using hregion
  exact validate_eq_none.2 ⟨fun _ => ⟨hvalid, hpitch⟩, hconfig, fun _ => hmax, rfl, hregions, rfl⟩

end Sys2Proof.Machine

namespace Sys2Proof.Proofs

open Sys2Proof.Machine

/-- Settles O33: the residuals are those the pass diffuses; every pixel is found as the source held it and keeps the
colour it is rewritten with. -/
theorem dcolorDiffusesTheErrors : Obligations.DcolorDiffusesTheErrors := by
  intro s m hm hmode hsource hbpp hmax
  have hdepth : bppOf s.regs.srcBpp = some .b24 ∨ bppOf s.regs.srcBpp = some .b32 := by
    rcases hbpp with h | h <;> rw [h]
    · exact .inl rfl
    · exact .inr rfl
  have hr : BytePixels s.regs := ⟨hdepth, hsource.checks.2.1⟩
  have hpainted : Painted s.regs (matchedColourAt m s.params s.regs s.work) (Earlier s.regs.height 0) s.mem
      (dcolorRows m s.params s.regs s.work s.regs.height).mem := dcolorRows_painted hr le_rfl
  refine ⟨complete (s.runWork (dcolorWork m)), colourResidualAt m s.params s.regs s.work .c0,
    colourResidualAt m s.params s.regs s.work .c1, colourResidualAt m s.params s.regs s.work .c2, ?runs, ?completed,
    ?outside, ?pixels⟩
  case runs =>
    rw [exec_of_passed (validate_dcolor hm hmode hsource hdepth hmax), effectOf, dcolorEffect_of_mode hm]
  case completed => simp [CompletedWith, complete, State.runWork]
  case outside => exact fun a ha => hpainted.kept a fun y x j _ hy hx hj => ha y x j hy hx hj
  case pixels =>
    intro y x hy hx w a v0 v1 v2 q
    have hvalue := fun c => colourValue_eq (m := m) (w := s.work) hr hmax c hy hx
    have hred : colourValue s.regs .c0 y x ((dcolorBefore m s.params s.regs s.work y x).atCol x) = v0 := by
      rw [hvalue, sample_pixelAddr hr]; rfl
    have hgreen : colourValue s.regs .c1 y x ((dcolorBefore m s.params s.regs s.work y x).atCol x) = v1 := by
      rw [hvalue, sample_pixelAddr hr]; rfl
    have hblue : colourValue s.regs .c2 y x ((dcolorBefore m s.params s.regs s.work y x).atCol x) = v2 := by
      rw [hvalue, sample_pixelAddr hr]; rfl
    have hcolour : matchedColourAt m s.params s.regs s.work y x = q := by
      rw [matchedColourAt, matchedColour, hred, hgreen, hblue]; rfl
    have hbyte : ∀ j, j < 3 → Mem.read (dcolorRows m s.params s.regs s.work s.regs.height).mem (a + j) = q.byteAt j :=
      fun j hj => hcolour ▸ hpainted.colour y x j (.inl hy) hy hx hj
    refine ⟨hbyte 2 (by omega), hbyte 1 (by omega), hbyte 0 (by omega), ?_, ?_, ?_⟩
    · exact congrArg₂ (fun v (c : Rgb) => v - (c.r.toNat : Int)) hred hcolour
    · exact congrArg₂ (fun v (c : Rgb) => v - (c.g.toNat : Int)) hgreen hcolour
    · exact congrArg₂ (fun v (c : Rgb) => v - (c.b.toNat : Int)) hblue hcolour

end Sys2Proof.Proofs
end

section
/-! Rows and planes, bit by bit (44_packer.md R221, R222): what a loop over rows leaves of a plane, what a symbol puts
into a row, and what unpacking a pixel takes out of it (R227). -/

namespace Sys2Proof.Machine

/-! ## Rows and planes of bits -/

/-- From `m` to `m'` the `n` bytes at `start` take the bits `bit`, and no other byte changes. -/
structure RowHolds (start n : Nat) (bit : Nat → Bool) (m m' : Mem) : Prop where
  bits : ∀ i, i < 8 * n → rowBit m' start i = bit i
  kept : ∀ a, ¬(Region.mk start n).Has a → Mem.read m' a = Mem.read m a

/-- From `m` to `m'` the `n` rows of `dp` bytes at `base` take the bits `bit`, and no other byte changes. -/
structure PlaneHolds (base dp n : Nat) (bit : Nat → Nat → Bool) (m m' : Mem) : Prop where
  bits : ∀ y i, y < n → i < 8 * dp → rowBit m' (base + y * dp) i = bit y i
  kept : ∀ a, ¬(Region.mk base (dp * n)).Has a → Mem.read m' a = Mem.read m a

theorem rowBit_congr {m m' : Mem} {row i : Nat} (h : Mem.read m' (row + i / 8) = Mem.read m (row + i / 8)) :
    rowBit m' row i = rowBit m row i := by simp only [rowBit, h]

/-- The bits of a row fix its bytes. -/
theorem read_eq_of_rowBit {m : Mem} {row k : Nat} {v : Byte}
    (h : ∀ j, j < 8 → rowBit m row (8 * k + j) = v.getLsbD (7 - j)) : Mem.read m (row + k) = v := by
  refine BitVec.eq_of_getLsbD_eq fun j hj => ?_
  have hbit := h (7 - j) (by omega)
  have hbyte : (8 * k + (7 - j)) / 8 = k := by omega
  have hplace : 7 - (8 * k + (7 - j)) % 8 = j := by omega
  have hback : 7 - (7 - j) = j := by omega
  rwa [rowBit, hbyte, hplace, hback] at hbit

/-- One more byte of a row. -/
theorem RowHolds.write {start n : Nat} {bit : Nat → Bool} {m m' : Mem} (h : RowHolds start n bit m m') {v : Byte}
    (hv : ∀ i, i / 8 = n → v.getLsbD (7 - i % 8) = bit i) :
    RowHolds start (n + 1) bit m (Mem.write m' (start + n) v) where
  bits i hi := by
    rw [rowBit_write]
    split
    · exact hv i ‹_›
    · exact h.bits i (by omega)
  kept a ha := by
    simp only [Region.Has] at ha
    rw [Mem.read_write_ne _ _ (by omega), h.kept a (by simp only [Region.Has]; omega)]

namespace PlaneHolds

variable {base dp n : Nat} {bit : Nat → Nat → Bool} {m m' m'' : Mem}

theorem zero (base dp : Nat) (bit : Nat → Nat → Bool) (m : Mem) : PlaneHolds base dp 0 bit m m where
  bits := nofun
  kept _ _ := rfl

/-- One more row of a plane. -/
theorem succ (h : PlaneHolds base dp n bit m m') (hrow : RowHolds (base + n * dp) dp (bit n) m' m'') :
    PlaneHolds base dp (n + 1) bit m m'' where
  bits y i hy hi := by
    rcases Nat.lt_succ_iff_lt_or_eq.1 hy with hlt | rfl
    · have hbefore : (y + 1) * dp ≤ n * dp := Nat.mul_le_mul_right _ hlt
      rw [Nat.succ_mul] at hbefore
      rw [rowBit_congr (hrow.kept _ (by simp only [Region.Has]; omega))]
      exact h.bits y i hlt hi
    · exact hrow.bits i hi
  kept a ha := by
    simp only [Region.Has, Nat.mul_succ] at ha
    have hcomm : n * dp = dp * n := Nat.mul_comm ..
    rw [hrow.kept a (by simp only [Region.Has]; omega), h.kept a (by simp only [Region.Has]; omega)]

/-- Two planes of the same bits on one memory leave the same bytes. -/
theorem read_eq {m₁ m₂ : Mem} (h₁ : PlaneHolds base dp n bit m m₁) (h₂ : PlaneHolds base dp n bit m m₂) (a : Nat) :
    Mem.read m₁ a = Mem.read m₂ a := by
  by_cases ha : (Region.mk base (dp * n)).Has a
  · obtain ⟨y, hy, k, hk, rfl⟩ := region_has_iff_row.1 ha
    refine read_eq_of_rowBit fun j hj => ?_
    have hbyte : (8 * k + j) / 8 = k := by omega
    have hplace : (8 * k + j) % 8 = j := by omega
    rw [h₁.bits y _ hy (by omega), ← h₂.bits y _ hy (by omega), rowBit, hbyte, hplace]
  · rw [h₁.kept a ha, h₂.kept a ha]

/-- Only the bits of its rows make a plane. -/
theorem congr {bit' : Nat → Nat → Bool} (h : PlaneHolds base dp n bit m m')
    (hbit : ∀ y i, y < n → i < 8 * dp → bit y i = bit' y i) : PlaneHolds base dp n bit' m m' where
  bits y i hy hi := (h.bits y i hy hi).trans (hbit y i hy hi)
  kept := h.kept

end PlaneHolds

/-- A loop over rows leaves a plane, if each round leaves its row on a memory that was changed in the plane alone. -/
theorem forRows_planeHolds {base dp n : Nat} {bit : Nat → Nat → Bool} {body : Nat → Work → Work} {w : Work}
    (h : ∀ y u, y < n → (∀ a, ¬(Region.mk base (dp * n)).Has a → Mem.read u.mem a = Mem.read w.mem a) →
      RowHolds (base + y * dp) dp (bit y) u.mem (body y u).mem) :
    PlaneHolds base dp n bit w.mem (forRows n body w).mem := by
  refine forUpto_induction (fun y (u : Work) => PlaneHolds base dp y bit w.mem u.mem) (.zero ..) fun y u hy hu => ?_
  refine hu.succ (h y (u.atRow y) hy fun a ha => hu.kept a fun hin => ha ⟨hin.1, hin.2.trans_le ?_⟩)
  exact Nat.add_le_add_left (Nat.mul_le_mul_left dp hy.le) base

/-! ## The bits of symbols -/

/-- Bit `i` of plane `p` of a row of symbols: at 2 bits per pixel the symbols' bits, high one first, else bit `p` of
each symbol (44_packer.md R222, R223). -/
def packedBit (bps p : Nat) (sym : Nat → BitVec 2) (i : Nat) : Bool :=
  (sym (i / bps)).getLsbD (if bps = 2 then 1 - i % 2 else p)

theorem packedBit_one (p : Nat) (sym : Nat → BitVec 2) (x : Nat) : packedBit 1 p sym x = (sym x).getLsbD p := by
  simp [packedBit]

theorem packedBit_two_high (p : Nat) (sym : Nat → BitVec 2) (x : Nat) :
    packedBit 2 p sym (x * 2) = (sym x).getLsbD 1 := by simp [packedBit]

theorem packedBit_two_low (p : Nat) (sym : Nat → BitVec 2) (x : Nat) :
    packedBit 2 p sym (x * 2 + 1) = (sym x).getLsbD 0 := by
  have hpixel : (x * 2 + 1) / 2 = x := by omega
  have hlow : 1 - (x * 2 + 1) % 2 = 0 := by omega
  rw [packedBit, if_pos rfl, hpixel, hlow]

theorem planeBits_one (p : Nat) (sym : BitVec 2) : planeBits 1 p sym = (sym.getLsbD p).toNat :=
  (Nat.toNat_testBit ..).symm

theorem planeBits_two : ∀ (p : Nat) (sym : BitVec 2),
    planeBits 2 p sym = 2 * (sym.getLsbD 1).toNat + (sym.getLsbD 0).toNat :=
  fun _ => (by decide : ∀ sym : BitVec 2, sym.toNat = 2 * (sym.getLsbD 1).toNat + (sym.getLsbD 0).toNat)

/-- Two bits put at once are put one by one, the high one first, where no byte ends between them (44_packer.md R222). -/
theorem packPut_two {w : Work} (h : w.eng.nb + 1 ≠ 8) (p : Nat) (sym : BitVec 2) :
    packPut (planeBits 2 p sym) 2 w = packPut (sym.getLsbD 0).toNat 1 (packPut (sym.getLsbD 1).toNat 1 w) := by
  have hbits : ∀ sym : BitVec 2, BitVec.ofNat 8 sym.toNat =
      BitVec.ofNat 8 (sym.getLsbD 1).toNat <<< 1 ||| BitVec.ofNat 8 (sym.getLsbD 0).toNat := by decide
  have hacc : w.eng.acc <<< 2 ||| BitVec.ofNat 8 sym.toNat =
      (w.eng.acc <<< 1 ||| BitVec.ofNat 8 (sym.getLsbD 1).toNat) <<< 1 ||| BitVec.ofNat 8 (sym.getLsbD 0).toNat := by
    rw [hbits, BitVec.shiftLeft_or_distrib, ← BitVec.shiftLeft_add, BitVec.or_assoc]
  simp only [planeBits, if_true, packPut, h, if_false, hacc, Nat.add_assoc, Nat.reduceAdd]
  rfl

/-- `PackPut` of what a plane takes of the next symbol. -/
theorem PackedBits.packPut_symbol {start x bps p : Nat} {sym : Nat → BitVec 2} {m : Mem} {w : Work}
    (hb : bps = 1 ∨ bps = 2) (h : PackedBits start (x * bps) (packedBit bps p sym) m w) :
    PackedBits start ((x + 1) * bps) (packedBit bps p sym) m (Machine.packPut (planeBits bps p (sym x)) bps w) := by
  obtain rfl | rfl := hb
  · rw [Nat.mul_one] at h ⊢
    rw [planeBits_one, ← packedBit_one p sym x]
    exact h.packPut
  · have hnb : w.eng.nb + 1 ≠ 8 := by rw [h.place.nb]; omega
    rw [packPut_two hnb, ← packedBit_two_high p, ← packedBit_two_low p, Nat.succ_mul]
    exact h.packPut.packPut

/-- Two neighbouring bits of a number, as one. -/
theorem div_pow_mod_four (v k : Nat) : v / 2 ^ k % 4 = 2 * (v.testBit (k + 1)).toNat + (v.testBit k).toNat := by
  rw [Nat.toNat_testBit, Nat.toNat_testBit, Nat.pow_succ, ← Nat.div_div_eq_div_mul]
  omega

/-- Unpacking two bits is reading two neighbouring bits of a row (44_packer.md R227). -/
theorem unpack_two (m : Mem) (base dp x y : Nat) :
    unpack m base dp 2 x y =
      2 * (rowBit m (base + y * dp) (x * 2)).toNat + (rowBit m (base + y * dp) (x * 2 + 1)).toNat := by
  have hbyte : (x * 2 + 1) / 8 = x * 2 / 8 := by omega
  have hhigh : 7 - x * 2 % 8 = 8 - 2 - x * 2 % 8 + 1 := by omega
  have hlow : 7 - (x * 2 + 1) % 8 = 8 - 2 - x * 2 % 8 := by omega
  rw [rowBit, rowBit, hbyte, hhigh, hlow]
  exact div_pow_mod_four _ _

/-- Unpacking a pixel gives back what its plane took of the symbol (44_packer.md R227). -/
theorem unpack_packedBit {m : Mem} {base dp bps p x y : Nat} {sym : Nat → BitVec 2} (hb : bps = 1 ∨ bps = 2)
    (h : ∀ i, i < (x + 1) * bps → rowBit m (base + y * dp) i = packedBit bps p sym i) :
    unpack m base dp bps x y = planeBits bps p (sym x) := by
  obtain rfl | rfl := hb
  · rw [unpack_one, h x (by omega), packedBit_one, planeBits_one]
  · rw [unpack_two, h _ (by omega), h _ (by omega), packedBit_two_high, packedBit_two_low, planeBits_two]

end Sys2Proof.Machine
end

section
/-! PACK (44_packer.md R220 to R224): the planes of a source they do not overlap hold the symbols of its pixels. -/

namespace Sys2Proof.Machine

open Sys2Proof.Config (Params)

/-! ## The planes -/

/-- The region of plane `p` with destination pitch `dp` (20_memory.md R70, 44_packer.md R224). -/
def planeRegion (r : Regs) (dp p : Nat) : Region := { base := planeBase r p, size := dp * r.height }

theorem packPlanes_eq_planeRegions {r : Regs} {m : Mode} (hm : modeOf r.mode = some m) :
    packPlanes r = (List.range (planeShape m).1).map (planeRegion r (destPitch r.width (planeShape m).2)) :=
  packPlanes_eq hm

theorem planeShape_bits (m : Mode) : (planeShape m).2 = 1 ∨ (planeShape m).2 = 2 := by cases m <;> decide

/-- No plane PACK writes in mode `m` has a byte of region SRC or of an earlier plane (20_memory.md R70, R72). -/
structure PlanesApart (m : Mode) (r : Regs) : Prop where
  source : ∀ p, p < (planeShape m).1 → ∀ a, (srcRegion r).Has a →
    ¬(planeRegion r (destPitch r.width (planeShape m).2) p).Has a
  planes : ∀ q p, q < p → p < (planeShape m).1 → ∀ a, (planeRegion r (destPitch r.width (planeShape m).2) q).Has a →
    ¬(planeRegion r (destPitch r.width (planeShape m).2) p).Has a

section rows

variable (m : Mode) (r : Regs) (p : Nat) (w : Work)

/-- The symbol of pixel `(x, y)` of the source in memory `m0` (42_matcher.md R168). -/
def symbolAt (m0 : Mem) (y x : Nat) : BitVec 2 := matchSymbol m r (sample r m0 x y)

/-- Row `y` of plane `p` of the source in memory `m0`: the bits of its symbols, then pad bits 0 (44_packer.md R222). -/
def planeRow (m0 : Mem) (y i : Nat) : Bool :=
  decide (i < r.width * (planeShape m).2) && packedBit (planeShape m).2 p (symbolAt m r m0 y) i

variable {m r p w} {m0 : Mem}

/-- The packer holds the symbols of the row's earlier pixels, since the row takes no byte of the source. -/
theorem packPixels_packed (hpitch : pitchOk r = true) {y : Nat} (hy : y < r.height)
    (hsource : ∀ a, (srcRegion r).Has a → Mem.read w.mem a = Mem.read m0 a)
    (hapart : ∀ a, (srcRegion r).Has a → ¬(planeRegion r (destPitch r.width (planeShape m).2) p).Has a) :
    PackedBits (planeBase r p + y * destPitch r.width (planeShape m).2) (r.width * (planeShape m).2)
      (packedBit (planeShape m).2 p (symbolAt m r m0 y)) w.mem
      (forCols r.width (packPixel m r p y)
        (packStart (planeBase r p) (destPitch r.width (planeShape m).2) y w)) := by
  refine forUpto_induction
    (fun x u => PackedBits (planeBase r p + y * destPitch r.width (planeShape m).2) (x * (planeShape m).2)
      (packedBit (planeShape m).2 p (symbolAt m r m0 y)) w.mem u)
    (by simpa using PackedBits.of_packStart (planeBase r p) (destPitch r.width (planeShape m).2) y _ w)
    fun x u hx hu => ?_
  have hrow : ∀ k, k ≤ x * (planeShape m).2 / 8 → (planeRegion r (destPitch r.width (planeShape m).2) p).Has
      (planeBase r p + y * destPitch r.width (planeShape m).2 + k) := by
    have hlast : (x + 1) * (planeShape m).2 ≤ r.width * (planeShape m).2 := Nat.mul_le_mul_right _ hx
    refine fun k hk => row_byte_in hy ?_
    rw [destPitch_eq]
    obtain hb | hb := planeShape_bits m <;> rw [hb] at hk hlast ⊢ <;> omega
  have hpending : ∀ a, (srcRegion r).Has a → Mem.read u.mem a = Mem.read m0 a := by
    intro a ha
    refine (hu.kept a fun hin => hapart a ha ?_).trans (hsource a ha)
    obtain ⟨k, rfl⟩ := Nat.exists_eq_add_of_le hin.1
    exact hrow k (by omega)
  have hsymbol : matchSymbol m r (sample r u.mem x y) = symbolAt m r m0 y x := by
    rw [symbolAt, sample_congr hpitch hx hy hpending]
  have hpixel : packPixel m r p y x (u.atCol x) =
      packPut (planeBits (planeShape m).2 p (symbolAt m r m0 y x)) (planeShape m).2 (u.atCol x) := by
    rw [packPixel, work_atCol_mem, hsymbol]
  rw [hpixel]
  exact (hu.congr (v := u.atCol x) rfl rfl rfl rfl).packPut_symbol (planeShape_bits m)

/-- A row of PACK leaves the symbols of the source in its bytes (44_packer.md R222, R223). -/
theorem packRow_rowHolds (hpitch : pitchOk r = true) {y : Nat} (hy : y < r.height)
    (hsource : ∀ a, (srcRegion r).Has a → Mem.read w.mem a = Mem.read m0 a)
    (hapart : ∀ a, (srcRegion r).Has a → ¬(planeRegion r (destPitch r.width (planeShape m).2) p).Has a) :
    RowHolds (planeBase r p + y * destPitch r.width (planeShape m).2) (destPitch r.width (planeShape m).2)
      (planeRow m r p m0 y) w.mem (packRow m r p y w).mem := by
  obtain ⟨hbits, hkept⟩ := (packPixels_packed hpitch hy hsource hapart).packEnd
  exact ⟨hbits, hkept⟩

/-- A plane of PACK holds the symbols of the source, row by row (44_packer.md R223). -/
theorem packPlane_planeHolds (hpitch : pitchOk r = true)
    (hsource : ∀ a, (srcRegion r).Has a → Mem.read w.mem a = Mem.read m0 a)
    (hapart : ∀ a, (srcRegion r).Has a → ¬(planeRegion r (destPitch r.width (planeShape m).2) p).Has a) :
    PlaneHolds (planeBase r p) (destPitch r.width (planeShape m).2) r.height (planeRow m r p m0) w.mem
      (forRows r.height (packRow m r p) w).mem :=
  forRows_planeHolds fun _ _ hy hkept =>
    packRow_rowHolds hpitch hy (fun a ha => (hkept a (hapart a ha)).trans (hsource a ha)) hapart

end rows

/-- The first `np` planes hold the symbols of the source in memory `m0`, and no byte outside them changed. -/
structure PlanesHold (m : Mode) (r : Regs) (np : Nat) (m0 m' : Mem) : Prop where
  bits : ∀ p y i, p < np → y < r.height → i < 8 * destPitch r.width (planeShape m).2 →
    rowBit m' (planeBase r p + y * destPitch r.width (planeShape m).2) i = planeRow m r p m0 y i
  kept : ∀ a, (∀ p, p < np → ¬(planeRegion r (destPitch r.width (planeShape m).2) p).Has a) →
    Mem.read m' a = Mem.read m0 a

/-- One more plane, apart from the earlier ones. -/
theorem PlanesHold.succ {m : Mode} {r : Regs} {np : Nat} {m0 m' m'' : Mem} (h : PlanesHold m r np m0 m')
    (hapart : ∀ q, q < np → ∀ a, (planeRegion r (destPitch r.width (planeShape m).2) q).Has a →
      ¬(planeRegion r (destPitch r.width (planeShape m).2) np).Has a)
    (hplane : PlaneHolds (planeBase r np) (destPitch r.width (planeShape m).2) r.height (planeRow m r np m0) m' m'') :
    PlanesHold m r (np + 1) m0 m'' where
  bits p y i hp hy hi := by
    rcases Nat.lt_succ_iff_lt_or_eq.1 hp with hlt | rfl
    · have hin : (planeRegion r (destPitch r.width (planeShape m).2) p).Has
          (planeBase r p + y * destPitch r.width (planeShape m).2 + i / 8) := row_byte_in hy (by omega)
      rw [rowBit_congr (hplane.kept _ (hapart p hlt _ hin))]
      exact h.bits p y i hlt hy hi
    · exact hplane.bits y i hy hi
  kept a ha := by
    rw [hplane.kept a (ha np (Nat.lt_succ_self np)), h.kept a fun p hp => ha p (Nat.lt_succ_of_lt hp)]

/-- PACK leaves the symbols of the source in all planes of the mode (44_packer.md R223, R224). -/
theorem packWork_planesHold {m : Mode} (p : Params) {r : Regs} (w : Work) (hpitch : pitchOk r = true)
    (hapart : PlanesApart m r) : PlanesHold m r (planeShape m).1 w.mem (packWork m p r w).mem := by
  refine forUpto_induction (fun np (u : Work) => PlanesHold m r np w.mem u.mem) ⟨nofun, fun _ _ => rfl⟩
    fun np u hnp hu => hu.succ (fun q hq => hapart.planes q np hq hnp) ?_
  exact packPlane_planeHolds (w := u.atPlane np) hpitch
    (fun a ha => hu.kept a fun q hq => hapart.source q (hq.trans hnp) a ha) (hapart.source np hnp)

/-! ## The line buffers -/

theorem atPlane_chan (c : Chan) (w : Work) (i : Nat) : (w.atPlane i).eng.chan c = w.eng.chan c := by cases c <;> rfl

theorem packRow_chan (c : Chan) (m : Mode) (r : Regs) (p y : Nat) (w : Work) :
    (packRow m r p y w).eng.chan c = w.eng.chan c := by
  rw [packRow, packEnd_chan]
  refine forUpto_invariant (fun u : Work => u.eng.chan c = w.eng.chan c) (packStart_chan ..) fun x u _ hu => ?_
  rw [packPixel, packPut_chan, atCol_chan, hu]

/-- PACK keeps the line buffers (10_state.md R42). -/
theorem packWork_chan (c : Chan) (m : Mode) (p : Params) (r : Regs) (w : Work) :
    (packWork m p r w).eng.chan c = w.eng.chan c := by
  refine forUpto_invariant (fun u : Work => u.eng.chan c = w.eng.chan c) rfl fun q u _ hu => ?_
  refine forUpto_invariant (fun v : Work => v.eng.chan c = w.eng.chan c) ((atPlane_chan ..).trans hu) fun y v _ hv => ?_
  rw [packRow_chan, atRow_chan, hv]

/-- The line buffers are kept where each channel's are. -/
theorem linesKept_of_chan {s t : State} (h : ∀ c, t.eng.chan c = s.eng.chan c) : LinesKept s t :=
  ⟨h .c0, h .c1, h .c2⟩

/-! ## PACK as a command -/

/-- A row of the mode table names its mode and the mode's planes (44_packer.md R220). -/
theorem modeOf_planeShape_of_mem_modeTable {m : Mode} {code : BitVec 3} {np bps : Nat}
    (h : (m, code, np, bps) ∈ modeTable) : modeOf code = some m ∧ (planeShape m).1 = np ∧ (planeShape m).2 = bps := by
  simp only [modeTable, List.mem_cons, Prod.mk.injEq, List.not_mem_nil, or_false] at h
  obtain ⟨rfl, rfl, rfl, rfl⟩ | ⟨rfl, rfl, rfl, rfl⟩ | ⟨rfl, rfl, rfl, rfl⟩ | ⟨rfl, rfl, rfl, rfl⟩ |
    ⟨rfl, rfl, rfl, rfl⟩ := h <;> exact ⟨rfl, rfl, rfl⟩

/-- A ready source passes V3 (40_command.md R123). -/
theorem SourceReady.pitch_ok {s : State} (h : SourceReady s) : pitchOk s.regs = true := h.checks.2.1

theorem planeShape_le_two (m : Mode) : (planeShape m).1 ≤ 2 := by cases m <;> decide

section ready

variable {s : State} {m : Mode}

/-- Each plane PACK writes passes V7, and V8 with the source (40_command.md R123). -/
theorem plane_of_packReady (h : PackReady s (planeShape m).1 (planeShape m).2) {p : Nat} (hp : p < (planeShape m).1) :
    planeBase s.regs p + planeSize s.regs (planeShape m).2 ≤ s.params.memSize ∧
      Apart s.regs.srcBase.toNat (s.regs.srcPitch.toNat * s.regs.srcHeight.toNat) (planeBase s.regs p)
        (planeSize s.regs (planeShape m).2) := by
  obtain ⟨-, hplane0, hplane1⟩ := h
  have htwo := planeShape_le_two m
  obtain rfl | ⟨rfl, hnp⟩ : p = 0 ∨ p = 1 ∧ (planeShape m).1 = 2 := by omega
  · exact ⟨hplane0.inMemory, hplane0.apart⟩
  · exact ⟨(hplane1 hnp).inMemory, (hplane1 hnp).apart⟩

/-- Two planes PACK writes pass V8 (40_command.md R123). -/
theorem planes_apart_of_packReady (h : PackReady s (planeShape m).1 (planeShape m).2) {q p : Nat} (hq : q < p)
    (hp : p < (planeShape m).1) :
    Apart (planeBase s.regs q) (planeSize s.regs (planeShape m).2) (planeBase s.regs p)
      (planeSize s.regs (planeShape m).2) := by
  obtain ⟨-, -, hplane1⟩ := h
  have htwo := planeShape_le_two m
  obtain ⟨rfl, rfl, hnp⟩ : q = 0 ∧ p = 1 ∧ (planeShape m).1 = 2 := by omega
  exact (hplane1 hnp).planesApart

/-- Regions apart have no byte in common (20_memory.md R72). -/
theorem Apart.not_has {g h : Region} (hapart : Apart g.base g.size h.base h.size) {a : Nat} (ha : g.Has a) :
    ¬h.Has a := fun hb => hapart ⟨ha.1.trans_lt hb.2, hb.1.trans_lt ha.2⟩

theorem planesApart_of_packReady (h : PackReady s (planeShape m).1 (planeShape m).2) : PlanesApart m s.regs where
  source _ hp _ ha := Apart.not_has (g := srcRegion s.regs) (h := planeRegion s.regs _ _) (plane_of_packReady h hp).2 ha
  planes _ _ hq hp _ ha :=
    Apart.not_has (g := planeRegion s.regs _ _) (h := planeRegion s.regs _ _) (planes_apart_of_packReady h hq hp) ha

/-- PACK of a ready source and planes passes its checks (44_packer.md R223). -/
theorem validate_pack (hm : modeOf s.regs.mode = some m) (h : PackReady s (planeShape m).1 (planeShape m).2) :
    validate s.params s.regs .pack = none := by
  obtain ⟨hvalid, hpitch, hregion⟩ := h.1.checks
  have hconfig : configUnsupported s.regs .pack = false := by simp [configUnsupported, hm]
  have hregions : ∀ g ∈ checkedRegions s.regs .pack, g.base + g.size ≤ s.params.memSize := by
    simp only [checkedRegions, readRegions, writeRegions, packPlanes_eq_planeRegions hm, List.cons_append,
      List.nil_append, List.forall_mem_cons, List.forall_mem_map, List.mem_range]
    exact ⟨hregion, fun p hp => (plane_of_packReady h hp).1⟩
  have hseparate : anyOverlap (separateRegions s.regs .pack) = false := by
    simp only [separateRegions, packPlanes_eq_planeRegions hm, anyOverlap_eq_false_iff, List.map_cons, List.map_map,
      List.pairwise_cons, List.forall_mem_map, List.pairwise_map, List.mem_range]
    refine ⟨fun p hp => (plane_of_packReady h hp).2, List.pairwise_lt_range.imp_of_mem fun _ hp hq => ?_⟩
    exact planes_apart_of_packReady h hq (List.mem_range.1 hp)
  exact validate_eq_none.2 ⟨fun _ => ⟨hvalid, hpitch⟩, hconfig, nofun, rfl, hregions, hseparate⟩

theorem packEffect_of_mode (hm : modeOf s.regs.mode = some m) :
    packEffect s = publishPlanes (destPitch s.regs.width (planeShape m).2) (planeShape m).1
      (s.runWork (packWork m)) := by simp only [packEffect, hm]

/-- What a PACK that passes its checks leaves: the state after the planes and their metadata. -/
theorem exec_pack (hm : modeOf s.regs.mode = some m) (h : PackReady s (planeShape m).1 (planeShape m).2) :
    exec .pack s = .next (complete (publishPlanes (destPitch s.regs.width (planeShape m).2) (planeShape m).1
      (s.runWork (packWork m)))) := by
  rw [exec_of_passed (validate_pack hm h), effectOf, packEffect_of_mode hm]

end ready

/-- Completion after a body and the publication of its planes changes the metadata, BUSY and DONE, memory and the
internal state (40_command.md R126, 44_packer.md R221). -/
theorem completedWith_publishPlanes (body : Params → Regs → Work → Work) (dp np : Nat) (s : State) :
    CompletedWith s (complete (publishPlanes dp np (s.runWork body)))
      { s.regs with
        dstPitch := BitVec.ofNat 17 dp
        planeBytes := BitVec.ofNat 32 (dp * s.regs.height)
        planes := BitVec.ofNat 2 np } false := by
  simp [CompletedWith, complete, publishPlanes, State.runWork]

end Sys2Proof.Machine

namespace Sys2Proof.Proofs

open Sys2Proof.Machine

/-- Settles O36: the planes hold the bits of the source's symbols, and unpacking puts a symbol's bits together again. -/
theorem packRoundTrip : Obligations.PackRoundTrip := by
  intro s m code np bps htable hcode hready
  obtain ⟨hm, rfl, rfl⟩ := modeOf_planeShape_of_mem_modeTable htable
  rw [← hcode] at hm
  obtain ⟨hbits, hkept⟩ := packWork_planesHold s.params s.work hready.1.pitch_ok (planesApart_of_packReady hready)
  refine ⟨_, exec_pack hm hready, completedWith_publishPlanes .., ?lines, ?outside, ?pixels⟩
  case lines => exact linesKept_of_chan fun c => packWork_chan c m s.params s.regs s.work
  case outside => exact hkept
  case pixels =>
    intro p y x hp hy hx
    refine unpack_packedBit (sym := symbolAt m s.regs s.mem y) (planeShape_bits m) fun i hi => ?_
    have hrow : i < s.regs.width * (planeShape m).2 := hi.trans_le (Nat.mul_le_mul_right _ hx)
    have hin : i < 8 * destPitch s.regs.width (planeShape m).2 := by rw [destPitch_eq]; omega
    refine (hbits p y i hp hy hin).trans ?_
    simp [planeRow, hrow]

/-- Settles O37: the bits of a plane past those of the row's symbols are 0. -/
theorem packPadsRowsWithZeroBits : Obligations.PackPadsRowsWithZeroBits := by
  intro s m code np bps htable hcode hready
  obtain ⟨hm, rfl, rfl⟩ := modeOf_planeShape_of_mem_modeTable htable
  rw [← hcode] at hm
  refine ⟨_, exec_pack hm hready, fun p y k hp hy hpad hk => ?_⟩
  have hplanes := packWork_planesHold s.params s.work hready.1.pitch_ok (planesApart_of_packReady hready)
  refine (hplanes.bits p y k hp hy hk).trans ?_
  simp [planeRow, Regs.width, Nat.not_lt.2 hpad]

end Sys2Proof.Proofs
end

section
/-! COPY1 (44_packer.md R225) and its agreement with PACK on a 1-bpp source in BINARY mode (R226). -/

namespace Sys2Proof.Machine

open Sys2Proof.Config (Params)

/-! ## The byte COPY1 writes -/

/-- COPY1 inverts the bits of the pixels and clears the pad bits (44_packer.md R225). -/
theorem copyByte_getLsbD {width k : Nat} (v : Byte) {i : Nat} (hi : i / 8 = k) (hk : k < destPitch width 1) :
    (copyByte width (destPitch width 1) k v).getLsbD (7 - i % 8) =
      (decide (i < width) && !v.getLsbD (7 - i % 8)) := by
  have hplace : 7 - i % 8 < 8 := by omega
  have hones : ∀ j, j < 8 → (0xFF#8).getLsbD j = true := by decide
  rw [destPitch_eq] at hk ⊢
  unfold copyByte
  split
  · rw [BitVec.getLsbD_and, BitVec.getLsbD_not, BitVec.getLsbD_shiftLeft, hones _ (by omega)]
    by_cases hpixel : i < width
    · have hlow : ¬(7 - i % 8 < 8 - width % 8) := by omega
      simp [hplace, hpixel, hlow]
    · have hlow : 7 - i % 8 < 8 - width % 8 := by omega
      simp [hpixel, hlow]
  · have hpixel : i < width := by omega
    simp [hplace, hpixel]

/-- Masking with shifted ones clears the bits below. -/
theorem and_ones_shiftLeft_toNat (v : Byte) {d : Nat} (hd : d ≤ 8) :
    (v &&& 0xFF#8 <<< d).toNat = v.toNat / 2 ^ d * 2 ^ d := by
  have hones : ∀ j, j < 8 → (0xFF#8).getLsbD j = true := by decide
  have hmask : v &&& 0xFF#8 <<< d = v >>> d <<< d := by
    refine BitVec.eq_of_getLsbD_eq fun j hj => ?_
    rw [BitVec.getLsbD_and, BitVec.getLsbD_shiftLeft, BitVec.getLsbD_shiftLeft, BitVec.getLsbD_ushiftRight,
      hones _ (by omega)]
    by_cases hlow : j < d
    · simp [hlow]
    · simp [hj, hlow, Nat.add_sub_cancel' (Nat.not_lt.1 hlow)]
  rw [hmask, BitVec.toNat_shiftLeft, BitVec.toNat_ushiftRight, Nat.shiftRight_eq_div_pow, Nat.shiftLeft_eq]
  exact Nat.mod_eq_of_lt ((Nat.div_mul_le_self ..).trans_lt v.isLt)

/-- The byte COPY1 writes, as a number (44_packer.md R225). -/
theorem copyByte_toNat (width : Nat) {n k : Nat} (hk : k < n) (v : Byte) :
    (copyByte width n k v).toNat =
      if k = n - 1 ∧ width % 8 ≠ 0 then (255 - v.toNat) / 2 ^ (8 - width % 8) * 2 ^ (8 - width % 8)
      else 255 - v.toNat := by
  have hlast : k + 1 = n ↔ k = n - 1 := by omega
  have hinverse : (~~~v).toNat = 255 - v.toNat := BitVec.toNat_not
  simp only [copyByte, hlast]
  split
  · rw [and_ones_shiftLeft_toNat _ (Nat.sub_le ..), hinverse]
  · exact hinverse

/-! ## The plane -/

/-- Row `y` of the plane COPY1 makes of the source in memory `m0`: the inverted bits of its pixels, then pad bits 0
(44_packer.md R225). -/
def copiedRow (r : Regs) (m0 : Mem) (y i : Nat) : Bool := decide (i < r.width) && !rowBit m0 (imageRowAddr r y) i

section copy

variable {r : Regs} {w : Work} {m0 : Mem}

/-- A row of COPY1 leaves the inverted bits of the source in its bytes, since it takes no byte of the source
(44_packer.md R225). -/
theorem copyRow_rowHolds (hpitch : destPitch r.width 1 ≤ r.pitch) {y : Nat} (hy : y < r.height)
    (hsource : ∀ a, (srcRegion r).Has a → Mem.read w.mem a = Mem.read m0 a)
    (hapart : ∀ a, (srcRegion r).Has a → ¬(plane0Region r (destPitch r.width 1)).Has a) :
    RowHolds (r.dst0Base.toNat + y * destPitch r.width 1) (destPitch r.width 1) (copiedRow r m0 y) w.mem
      (copyRow r y w).mem := by
  refine forUpto_induction
    (fun k (u : Work) => RowHolds (r.dst0Base.toNat + y * destPitch r.width 1) k (copiedRow r m0 y) w.mem u.mem)
    ⟨nofun, fun _ _ => rfl⟩ fun k u hk hu => hu.write fun i hi => ?_
  have hin : (srcRegion r).Has (imageRowAddr r y + k) := srcRegion_has hy (hk.trans_le hpitch)
  have hpending : Mem.read u.mem (imageRowAddr r y + k) = Mem.read m0 (imageRowAddr r y + k) := by
    refine (hu.kept _ fun hrow => hapart _ hin ?_).trans (hsource _ hin)
    obtain ⟨j, hj⟩ := Nat.exists_eq_add_of_le hrow.1
    have hlt : j < k := by simpa [hj] using hrow.2
    rw [hj]
    exact row_byte_in hy (hlt.trans hk)
  rw [copyByte_getLsbD _ hi hk, work_read_eq, work_atCol_mem, hpending, copiedRow, rowBit, hi]

/-- Plane 0 after COPY1 holds the inverted bits of the source, row by row (44_packer.md R225). -/
theorem copyWork_planeHolds (p : Params) (w : Work) (hpitch : destPitch r.width 1 ≤ r.pitch)
    (hapart : ∀ a, (srcRegion r).Has a → ¬(plane0Region r (destPitch r.width 1)).Has a) :
    PlaneHolds r.dst0Base.toNat (destPitch r.width 1) r.height (copiedRow r w.mem) w.mem (copyWork p r w).mem :=
  forRows_planeHolds fun _ _ hy hkept => copyRow_rowHolds hpitch hy (fun a ha => hkept a (hapart a ha)) hapart

/-- The byte of plane 0 after COPY1 is the one made of the source's byte (44_packer.md R225). -/
theorem PlaneHolds.read_copied {m' : Mem} {y k : Nat}
    (h : PlaneHolds r.dst0Base.toNat (destPitch r.width 1) r.height (copiedRow r m0) m0 m') (hy : y < r.height)
    (hk : k < destPitch r.width 1) :
    Mem.read m' (r.dst0Base.toNat + y * destPitch r.width 1 + k) =
      copyByte r.width (destPitch r.width 1) k (Mem.read m0 (imageRowAddr r y + k)) := by
  refine read_eq_of_rowBit fun j hj => ?_
  have hbyte : (8 * k + j) / 8 = k := by omega
  have hplace : (8 * k + j) % 8 = j := by omega
  rw [h.bits y _ hy (by omega), copiedRow, rowBit, hbyte, ← copyByte_getLsbD _ hbyte hk, hplace]

/-- COPY1 keeps the line buffers (10_state.md R42). -/
theorem copyWork_chan (c : Chan) (p : Params) (r : Regs) (w : Work) :
    (copyWork p r w).eng.chan c = w.eng.chan c := by
  refine forUpto_invariant (fun u : Work => u.eng.chan c = w.eng.chan c) rfl fun y u _ hu => ?_
  refine forUpto_invariant (fun v : Work => v.eng.chan c = w.eng.chan c) ((atRow_chan ..).trans hu) fun k v _ hv => ?_
  rw [work_write_eng, atCol_chan, hv]

end copy

/-! ## COPY1 as a command -/

/-- The destination pitch of a plane of single bits (44_packer.md R221). -/
theorem destPitch_srcWidth (r : Regs) : destPitch r.width 1 = (r.srcWidth.toNat + 7) / 8 := by
  rw [destPitch_eq, Nat.mul_one]; rfl

/-- The rows of a 1-bpp source hold the bytes COPY1 reads (20_memory.md R67). -/
theorem destPitch_le_pitch {r : Regs} (hdepth : bppOf r.srcBpp = some .b1) (hpitch : pitchOk r = true) :
    destPitch r.width 1 ≤ r.pitch := by
  have hbits := pitchOk_holds_row hpitch hdepth
  rw [destPitch_eq]
  simp only [Bpp.bits] at hbits
  omega

/-- On a 1-bpp source in BINARY mode COPY1 passes its checks where PACK does: their regions are the same (20_memory.md
R70). -/
theorem validate_copy1_of_pack {p : Params} {r : Regs} (hmode : modeOf r.mode = some .binary)
    (hdepth : bppOf r.srcBpp = some .b1) (h : validate p r .pack = none) : validate p r .copy1 = none := by
  obtain ⟨hsource, -, -, -, hregions, hseparate⟩ := validate_eq_none.1 h
  have hplanes : packPlanes r = [plane0Region r (destPitch r.width (bpsOf r))] := by
    simp [packPlanes, hmode, planeShape, bpsOf]
  have hconfig : configUnsupported r .copy1 = false := by simp [configUnsupported, hmode, hdepth]
  simp only [checkedRegions, writeRegions, hplanes] at hregions
  simp only [separateRegions, hplanes] at hseparate
  exact validate_eq_none.2 ⟨hsource, hconfig, nofun, rfl, hregions, hseparate⟩

section ready

variable {s : State}

/-- A ready source and plane 0 are all PACK needs in BINARY mode (44_packer.md R220). -/
theorem packReady_binary (hsource : SourceReady s) (hplane : Plane0Ready s 1) :
    PackReady s (planeShape .binary).1 (planeShape .binary).2 := ⟨hsource, hplane, nofun⟩

/-- What COPY1 leaves of a ready 1-bpp source in BINARY mode: the state after plane 0 and its metadata. -/
theorem exec_copy1 (hmode : modeOf s.regs.mode = some .binary) (hdepth : bppOf s.regs.srcBpp = some .b1)
    (hsource : SourceReady s) (hplane : Plane0Ready s 1) :
    exec .copy1 s = .next (complete (publishPlanes (destPitch s.regs.width 1) 1 (s.runWork copyWork))) :=
  exec_of_passed (validate_copy1_of_pack hmode hdepth (validate_pack hmode (packReady_binary hsource hplane)))

end ready

/-! ## COPY1 and PACK -/

/-- The symbol BINARY gives a 1-bpp pixel: with THR_GREY 0 it is white, else it is the inverted bit (44_packer.md
R226). -/
theorem symbolAt_binary_1bpp {r : Regs} (hdepth : r.srcBpp = 1) (m0 : Mem) (y x : Nat) :
    symbolAt .binary r m0 y x =
      if r.thrGrey.toNat = 0 then 1 else if rowBit m0 (imageRowAddr r y) x then 0 else 1 := by
  have hsample : sample r m0 x y = if rowBit m0 (imageRowAddr r y) x then Rgb.black else Rgb.white := by
    simp only [sample, hdepth]; rfl
  have hblack : luma Rgb.black = 0 := rfl
  have hwhite : luma Rgb.white = 255 := rfl
  have hthreshold := r.thrGrey.isLt
  rw [symbolAt, hsample]
  simp only [matchSymbol, matchBinary, grey]
  split
  · simp only [hblack, Nat.le_zero]
  · have hle : r.thrGrey.toNat ≤ 255 := by omega
    simp only [hwhite, hle, if_true, ite_self]

/-- A row of PACK in BINARY mode on a 1-bpp source, for both cases of THR_GREY (44_packer.md R226). -/
theorem planeRow_binary_1bpp {r : Regs} (hdepth : r.srcBpp = 1) (m0 : Mem) (y i : Nat) :
    planeRow .binary r 0 m0 y i = if r.thrGrey.toNat = 0 then decide (i < r.width) else copiedRow r m0 y i := by
  have hbit : packedBit 1 0 (symbolAt .binary r m0 y) i = (symbolAt .binary r m0 y i).getLsbD 0 := packedBit_one ..
  have hsize : r.width * (planeShape .binary).2 = r.width := Nat.mul_one _
  rw [planeRow, hsize]
  refine (congrArg _ hbit).trans ?_
  rw [symbolAt_binary_1bpp hdepth, copiedRow]
  split
  · simp
  · cases rowBit m0 (imageRowAddr r y) i <;> simp

end Sys2Proof.Machine

namespace Sys2Proof.Proofs

open Sys2Proof.Machine

/-- Settles O38: the plane holds the inverted bits of the source's pixels, which make up the bytes COPY1 computes. -/
theorem copyInvertsTheSource : Obligations.CopyInvertsTheSource := by
  intro s hcode hbpp hsource hplane
  have hmode : modeOf s.regs.mode = some .binary := by rw [hcode]; rfl
  have hdepth : bppOf s.regs.srcBpp = some .b1 := by rw [hbpp]; rfl
  have hdp := destPitch_srcWidth s.regs
  have hcopy := copyWork_planeHolds s.params s.work (destPitch_le_pitch hdepth hsource.pitch_ok) hplane.source_apart
  refine ⟨_, exec_copy1 hmode hdepth hsource hplane, hdp ▸ completedWith_publishPlanes .., ?lines, ?outside, ?bytes⟩
  case lines => exact linesKept_of_chan fun c => copyWork_chan c s.params s.regs s.work
  case outside => exact hcopy.kept
  case bytes =>
    intro y k hy hk v
    rw [← hdp] at hk ⊢
    exact (congrArg BitVec.toNat (hcopy.read_copied hy hk)).trans (copyByte_toNat _ hk _)

/-- Settles O39: both commands run the same checks and publish the same metadata; their rows of plane 0 hold the same
bits, but for THR_GREY 0, where every symbol PACK puts is white. -/
theorem copyAndPackAgree : Obligations.CopyAndPackAgree := by
  intro s hcode hbpp hsource hplane
  have hmode : modeOf s.regs.mode = some .binary := by rw [hcode]; rfl
  have hdepth : bppOf s.regs.srcBpp = some .b1 := by rw [hbpp]; rfl
  have hready := packReady_binary hsource hplane
  have hpitch := hsource.pitch_ok
  have hcopy := copyWork_planeHolds s.params s.work (destPitch_le_pitch hdepth hpitch) hplane.source_apart
  have hpack : PlaneHolds s.regs.dst0Base.toNat (destPitch s.regs.width 1) s.regs.height
      (planeRow .binary s.regs 0 s.mem) s.mem (packWork .binary s.params s.regs s.work).mem :=
    packPlane_planeHolds (m := .binary) (p := 0) (w := s.work.atPlane 0) hpitch (fun _ _ => rfl) hplane.source_apart
  refine ⟨_, _, exec_copy1 hmode hdepth hsource hplane, exec_pack hmode hready, rfl, rfl, fun hthr => ?same,
    fun hthr y x hy hx => ?white⟩
  case same =>
    have hsame := hpack.congr (bit' := copiedRow s.regs s.mem) fun y i _ _ => by
      rw [planeRow_binary_1bpp hbpp, if_neg (by omega)]
    exact fun a => hsame.read_eq hcopy a
  case white =>
    have hbit := hpack.bits y x hy (by rw [destPitch_srcWidth]; omega)
    rw [planeRow_binary_1bpp hbpp, if_pos (by rw [hthr]; rfl), destPitch_srcWidth] at hbit
    refine (unpack_one ..).trans ((congrArg Bool.toNat hbit).trans ?_)
    simp [Regs.width, hx]

end Sys2Proof.Proofs
end

section
/-! The geometry commands as commands (45_geometry.md R250): each passes its checks where its regions are ready, its
completion changes BUSY, DONE, GEOM_SKIP and the exchanged registers alone, and none of them touches a line buffer. -/

namespace Sys2Proof.Machine

open Sys2Proof.Config (Params)

/-! ## Checks -/

/-- The geometry commands (45_geometry.md R250). -/
def geometryCommands : List Instr := [.vflip, .mirror, .rot90, .rot180, .rot270, .invert]

/-- A geometry command of a ready source passes its checks where its regions do (45_geometry.md R250). -/
theorem validate_geometry {s : State} {i : Instr} (hi : i ∈ geometryCommands) (hsource : SourceReady s)
    (hregions : ∀ g ∈ checkedRegions s.regs i, g.base + g.size ≤ s.params.memSize)
    (hseparate : anyOverlap (separateRegions s.regs i) = false) : validate s.params s.regs i = none := by
  obtain ⟨hvalid, hpitch, -⟩ := hsource.checks
  have hother : configUnsupported s.regs i = false ∧ usesLineBuffers i = false ∧ coordsOutside s.regs i = false := by
    simp only [geometryCommands, List.mem_cons, List.not_mem_nil, or_false] at hi
    obtain rfl | rfl | rfl | rfl | rfl | rfl := hi <;> exact ⟨rfl, rfl, rfl⟩
  obtain ⟨hconfig, hlines, hcoords⟩ := hother
  exact validate_eq_none.2 ⟨fun _ => ⟨hvalid, hpitch⟩, hconfig, by simp [hlines], hcoords, hregions, hseparate⟩

/-- What a transform in place leaves of a ready source: it reads and writes SRC alone. -/
theorem exec_inPlace {s : State} {i : Instr} (hi : i ∈ [Instr.vflip, .mirror, .rot180, .invert])
    (hsource : SourceReady s) : exec i s = .next (complete (effectOf i s)) := by
  obtain ⟨-, -, hregion⟩ := hsource.checks
  simp only [List.mem_cons, List.not_mem_nil, or_false] at hi
  have hgeometry : i ∈ geometryCommands := by obtain rfl | rfl | rfl | rfl := hi <;> simp [geometryCommands]
  have hchecked : checkedRegions s.regs i = [srcRegion s.regs, srcRegion s.regs] := by
    obtain rfl | rfl | rfl | rfl := hi <;> rfl
  have hseparate : separateRegions s.regs i = [] := by obtain rfl | rfl | rfl | rfl := hi <;> rfl
  refine exec_of_passed (validate_geometry hgeometry hsource ?_ (by rw [hseparate]; rfl))
  rw [hchecked]
  simpa using hregion

/-- What a rotation by 90 or 270 degrees leaves of a ready source: at 4 bpp it needs a ready scratch buffer too
(45_geometry.md R250, R260). -/
theorem exec_rotation {s : State} {i : Instr} (hi : i = .rot90 ∨ i = .rot270) (hsource : SourceReady s)
    (hscratch : s.regs.srcBpp = 4 → ScratchReady s) : exec i s = .next (complete (effectOf i s)) := by
  obtain ⟨-, -, hregion⟩ := hsource.checks
  have hchecked : checkedRegions s.regs i =
      srcRegion s.regs :: if s.regs.srcBpp = 4 then [scratchRegion s.regs] else [] := by
    obtain rfl | rfl := hi <;> simp [checkedRegions, writeRegions, is4bpp_iff]
  have hapart : apartIntervals s.regs i =
      if s.regs.srcBpp = 4 then [srcInterval s.regs, scrInterval s.regs] else [] := by
    obtain rfl | rfl := hi <;> rfl
  refine exec_of_passed (validate_geometry ?_ hsource ?_ ?_)
  · obtain rfl | rfl := hi <;> simp [geometryCommands]
  · rw [hchecked, List.forall_mem_cons]
    refine ⟨hregion, fun g hg => ?_⟩
    split at hg
    · rw [List.mem_singleton.1 hg]; exact (hscratch ‹_›).inMemory
    · cases hg
  · rw [anyOverlap_eq_false_iff, separateRegions_intervals, hapart]
    split
    · exact List.pairwise_pair.2 (hscratch ‹_›).apart
    · exact .nil

/-! ## Completion -/

section completion

variable (s : State)

theorem completedWith_runWork (body : Params → Regs → Work → Work) :
    CompletedWith s (complete (s.runWork body)) s.regs false := by
  simp [CompletedWith, complete, State.runWork]

theorem completedWith_setGeomSkip : CompletedWith s (complete (setGeomSkip s)) s.regs true := by
  simp [CompletedWith, complete, setGeomSkip]

/-- The mirror completes, with GEOM_SKIP where it is skipped (45_geometry.md R252, R253). -/
theorem completedWith_mirrorEffect : CompletedWith s (complete (mirrorEffect s)) s.regs (mirrorSkips s.regs) := by
  unfold mirrorEffect
  cases hskip : mirrorSkips s.regs with
  | true => exact completedWith_setGeomSkip s
  | false => exact completedWith_runWork s mirrorWork

/-- ROT180 changes what its mirror half changes, and memory (45_geometry.md R256). -/
theorem completedWith_rot180Effect : CompletedWith s (complete (rot180Effect s)) s.regs (mirrorSkips s.regs) := by
  refine (completedWith_mirrorEffect (s.runWork vflipWork)).trans ?_
  simp [State.runWork, rot180Effect]

/-- A 4-bpp rotation exchanges the source registers (45_geometry.md R258). -/
theorem completedWith_exchangeSource (body : Params → Regs → Work → Work) :
    CompletedWith s (complete (exchangeSource (s.runWork body))) (rotatedRegs s.regs) false := by
  simp [CompletedWith, complete, exchangeSource, State.runWork, rotatedRegs, rotatedPitch_eq]

/-- Where the mirror is skipped, by the numbers of 45_geometry.md R253. -/
theorem mirrorSkips_eq (r : Regs) : mirrorSkips r = decide (r.srcBpp.toNat = 1 ∧ r.srcWidth.toNat % 8 ≠ 0) := by
  have depth : ∀ v : BitVec 6, (bppOf v == some .b1) = decide (v.toNat = 1) := by decide
  rw [mirrorSkips, depth, Bool.decide_and]
  simp [Regs.width, bne, beq_eq_decide]

end completion

/-! ## The line buffers -/

/-- The body leaves every line buffer as it was (10_state.md R42). -/
def KeepsLines (f : Work → Work) : Prop := ∀ c w, (f w).eng.chan c = w.eng.chan c

/-- One row of the mirror at bit depth `d`: the round of `mirrorRows` (45_geometry.md R252 to R255). -/
def mirrorRow : Bpp → Nat → Nat → Work → Work
  | .b1, width, row => mirrorRow1 (width / 8) row
  | .b4, width, row => mirrorRow4 width row
  | .b8, width, row => mirrorRowBytes 1 width row
  | .b24, width, row => mirrorRowBytes 3 width row
  | .b32, width, row => mirrorRowBytes 4 width row

theorem mirrorRows_eq (d : Bpp) (base width height pitch : Nat) (w : Work) :
    mirrorRows d base width height pitch w = forRows height (fun y => mirrorRow d width (base + y * pitch)) w := by
  cases d <;> rfl

namespace KeepsLines

variable {f g : Work → Work} {n : Nat} {body : Nat → Work → Work}

protected theorem id : KeepsLines id := fun _ _ => rfl

theorem comp (hf : KeepsLines f) (hg : KeepsLines g) : KeepsLines fun w => g (f w) :=
  fun c w => (hg c (f w)).trans (hf c w)

theorem loop (h : ∀ i, KeepsLines (body i)) : KeepsLines (forUpto n body) := fun c w =>
  forUpto_invariant (fun u : Work => u.eng.chan c = w.eng.chan c) rfl fun i u _ hu => (h i c u).trans hu

theorem rows (h : ∀ i, KeepsLines (body i)) : KeepsLines (forRows n body) :=
  loop fun i => comp (f := (Work.atRow · i)) (fun c w => atRow_chan c w i) (h i)

theorem cols (h : ∀ i, KeepsLines (body i)) : KeepsLines (forCols n body) :=
  loop fun i => comp (f := (Work.atCol · i)) (fun c w => atCol_chan c w i) (h i)

theorem swaps (h : ∀ i, KeepsLines (body i)) : KeepsLines (forSwaps n body) :=
  loop fun i => comp (f := (Work.atSwap · i)) (fun c _ => by cases c <;> rfl) (h i)

theorem flipRows (base height pitch : Nat) : KeepsLines (flipRows base height pitch) :=
  swaps fun _ => cols fun _ _ _ => rfl

theorem mirrorRow1 (nb row : Nat) : KeepsLines (mirrorRow1 nb row) := by
  have pairs : KeepsLines (forCols (nb / 2) fun k w => w.swapBytes rev8 (row + k) (row + (nb - 1 - k))) :=
    cols fun _ _ _ => rfl
  intro c w
  unfold Machine.mirrorRow1
  simp only
  split <;> exact pairs c w

theorem mirrorRow4 (width row : Nat) : KeepsLines (mirrorRow4 width row) := cols fun _ _ _ => rfl

theorem mirrorRowBytes (n width row : Nat) : KeepsLines (mirrorRowBytes n width row) :=
  cols fun _ => loop fun _ _ _ => rfl

theorem mirrorRow (d : Bpp) (width row : Nat) : KeepsLines (mirrorRow d width row) := by
  cases d with
  | b1 => exact mirrorRow1 _ _
  | b4 => exact mirrorRow4 _ _
  | b8 | b24 | b32 => exact mirrorRowBytes _ _ _

theorem mirrorRows (d : Bpp) (base width height pitch : Nat) : KeepsLines (mirrorRows d base width height pitch) := by
  intro c w
  rw [mirrorRows_eq]
  exact rows (fun y => mirrorRow d width (base + y * pitch)) c w

theorem mirrorWork (p : Params) (r : Regs) : KeepsLines (mirrorWork p r) := by
  unfold Machine.mirrorWork
  cases bppOf r.srcBpp with
  | none => exact KeepsLines.id
  | some d => exact mirrorRows _ _ _ _ _

theorem rot90Work (p : Params) (r : Regs) : KeepsLines (rot90Work p r) := rows fun _ => cols fun _ _ _ => rfl

theorem rot270Work (p : Params) (r : Regs) : KeepsLines (rot270Work p r) :=
  comp (f := fun w => Machine.flipRows _ _ _ (Machine.rot90Work p r w))
    (comp (rot90Work p r) (flipRows _ _ _)) (mirrorRows _ _ _ _ _)

theorem invertWork (p : Params) (r : Regs) : KeepsLines (invertWork p r) := loop fun _ _ _ => rfl

/-- A command whose body leaves the line buffers alone keeps them. -/
theorem linesKept {body : Params → Regs → Work → Work} {s : State} (h : KeepsLines (body s.params s.regs)) :
    LinesKept s (s.runWork body) := linesKept_of_chan fun c => h c s.work

end KeepsLines

theorem linesKept_mirrorEffect (s : State) : LinesKept s (mirrorEffect s) := by
  unfold mirrorEffect
  cases mirrorSkips s.regs with
  | true => exact ⟨rfl, rfl, rfl⟩
  | false => exact (KeepsLines.mirrorWork s.params s.regs).linesKept

theorem LinesKept.trans {s t u : State} (h : LinesKept s t) (h' : LinesKept t u) : LinesKept s u := by
  obtain ⟨h0, h1, h2⟩ := h
  obtain ⟨h0', h1', h2'⟩ := h'
  exact ⟨h0'.trans h0, h1'.trans h1, h2'.trans h2⟩

end Sys2Proof.Machine
end

section
/-! Reversals (45_geometry.md R251 to R255): a loop over the first half that exchanges item `i` with item `n - 1 - i`
reverses `n` items. VFLIP reverses the rows of a buffer, MIRROR the pixels of a row, and `PlaneHolds` says which bits
both leave. -/

namespace Sys2Proof.Machine

open Sys2Proof.Config (Params)

/-! ## The loop -/

/-- Rounds that each exchange item `i` and item `count - 1 - i`, passed through `f`, reverse the items; the one in the
middle, and what lies past the last, stay. -/
theorem forUpto_reverse {α β : Type} {count : Nat} {f : β → β} {get : α → Nat → β} {body : Nat → α → α}
    (hbody : ∀ i u, i < count / 2 → ∀ j, get (body i u) j =
      if j = i then f (get u (count - 1 - i)) else if j = count - 1 - i then f (get u i) else get u j)
    (w : α) (j : Nat) :
    get (forUpto (count / 2) body w) j =
      if j < count ∧ 2 * j + 1 ≠ count then f (get w (count - 1 - j)) else get w j := by
  have hrounds := forUpto_induction (n := count / 2) (body := body) (x := w)
    (fun i u => ∀ j, get u j = if j < i ∨ j < count ∧ count - 1 - j < i then f (get w (count - 1 - j)) else get w j)
    (by simp) fun i u hi hu j => ?round
  case round =>
    rw [hbody i u hi, hu, hu, hu]
    by_cases hleft : j = i
    · subst hleft
      rw [if_pos rfl, if_neg (by omega), if_pos (by omega)]
    · rw [if_neg hleft]
      by_cases hright : j = count - 1 - i
      · subst hright
        rw [if_pos rfl, if_neg (by omega), if_pos (by omega), show count - 1 - (count - 1 - i) = i by omega]
      · rw [if_neg hright]
        exact if_congr (by omega) rfl rfl
  rw [hrounds j]
  exact if_congr (by omega) rfl rfl

/-- Without a change on the way every item is that of the other end, the one in the middle too. -/
theorem forUpto_reverse_id {α β : Type} {count : Nat} {get : α → Nat → β} {body : Nat → α → α}
    (hbody : ∀ i u, i < count / 2 → ∀ j, get (body i u) j =
      if j = i then get u (count - 1 - i) else if j = count - 1 - i then get u i else get u j) (w : α) (j : Nat) :
    get (forUpto (count / 2) body w) j = if j < count then get w (count - 1 - j) else get w j := by
  rw [forUpto_reverse (f := id) hbody]
  by_cases hmiddle : 2 * j + 1 = count
  · rw [if_neg (by omega), if_pos (by omega), show count - 1 - j = j by omega]
  · exact if_congr (by omega) rfl rfl

/-- A loop that exchanges blocks `i` and `c` of `n` bytes, byte by byte, exchanges byte `k` of the two. -/
theorem swapBlocks_read {base n i c : Nat} {body : Nat → Work → Work} (w : Work)
    (hbody : ∀ q u, q < n → (body q u).mem = (u.swapBytes id (base + i * n + q) (base + c * n + q)).mem) (hic : i ≠ c)
    {k : Nat} (hk : k < n) (j : Nat) :
    Mem.read (forUpto n body w).mem (base + j * n + k) =
      if j = i then Mem.read w.mem (base + c * n + k)
      else if j = c then Mem.read w.mem (base + i * n + k) else Mem.read w.mem (base + j * n + k) := by
  have hplace : ∀ {a b p q : Nat}, p < n → q < n → base + a * n + p = base + b * n + q → a = b ∧ p = q :=
    fun hp hq h => row_offset_inj hp hq (by omega)
  obtain ⟨hleft, hright, hkept⟩ := swapLoop_read (w := w) hbody (fun _ _ hp hq h => (hplace hp hq h).2)
    (fun _ _ hp hq h => (hplace hp hq h).2) (fun _ _ hp hq h => hic (hplace hp hq h).1)
  split
  · subst j; exact hleft k hk
  · split
    · subst j; exact hright k hk
    · exact hkept _ fun q hq => ⟨fun h => ‹¬j = i› (hplace hk hq h).1, fun h => ‹¬j = c› (hplace hk hq h).1⟩

/-! ## Rows of a buffer -/

/-- A flip reverses the rows of the buffer, byte for byte (45_geometry.md R251). -/
theorem flipRows_read (base height pitch : Nat) (w : Work) {y k : Nat} (hy : y < height) (hk : k < pitch) :
    Mem.read (flipRows base height pitch w).mem (base + y * pitch + k) =
      Mem.read w.mem (base + (height - 1 - y) * pitch + k) := by
  refine (forUpto_reverse_id (get := fun (u : Work) y => Mem.read u.mem (base + y * pitch + k))
    (fun i u hi j => ?_) w y).trans (if_pos hy)
  exact swapBlocks_read (base := base)
    (body := fun q u => (u.atCol q).swapBytes id (base + i * pitch + q) (base + (height - 1 - i) * pitch + q))
    (u.atSwap i) (fun _ _ _ => rfl) (show i ≠ height - 1 - i by omega) hk j

/-- The bits of a flipped buffer (45_geometry.md R251). -/
theorem flipRows_planeHolds (base height pitch : Nat) (w : Work) :
    PlaneHolds base pitch height (fun y i => rowBit w.mem (base + (height - 1 - y) * pitch) i) w.mem
      (flipRows base height pitch w).mem where
  bits y i hy hi := by rw [rowBit, rowBit, flipRows_read base height pitch w hy (by omega)]
  kept a ha := by
    have hvia : Mem.Via (Region.mk base (pitch * height)).Has w.mem (flipRows base height pitch w).mem :=
      flipRows_via fun _ _ hy hk => row_byte_in hy hk
    exact hvia.read_outside ha

/-! ## Pixels of a row -/

/-- The bit a mirror of `width` pixels of `b` bits moves to bit `i` of its row: the same bit of the pixel at the other
end, or, past the pixels, bit `i` itself (45_geometry.md R252). -/
def mirrorIndex (b width i : Nat) : Nat := if i < width * b then (width - 1 - i / b) * b + i % b else i

theorem mirrorIndex_pixel {b width x j : Nat} (hx : x < width) (hj : j < b) :
    mirrorIndex b width (x * b + j) = (width - 1 - x) * b + j := by
  have hlt : (x + 1) * b ≤ width * b := Nat.mul_le_mul_right b hx
  rw [Nat.succ_mul] at hlt
  have hdiv : (x * b + j) / b = x := by
    rw [Nat.mul_comm, Nat.mul_add_div (by omega), Nat.div_eq_of_lt hj, Nat.add_zero]
  rw [mirrorIndex, if_pos (by omega), hdiv, Nat.mul_add_mod', Nat.mod_eq_of_lt hj]

theorem mirrorIndex_padding {b width i : Nat} (hi : width * b ≤ i) : mirrorIndex b width i = i :=
  if_neg (Nat.not_lt.2 hi)

/-- A bit of the pixels is a bit of one of them. -/
theorem exists_pixel_of_lt {b width i : Nat} (hi : i < width * b) : ∃ x j, x < width ∧ j < b ∧ i = x * b + j := by
  have hb : 0 < b := Nat.pos_of_mul_pos_left (Nat.zero_lt_of_lt hi)
  exact ⟨i / b, i % b, Nat.div_lt_of_lt_mul (Nat.mul_comm width b ▸ hi), Nat.mod_lt _ hb, (Nat.div_add_mod' i b).symm⟩

/-- The mirror stays within a row that holds the pixels. -/
theorem mirrorIndex_lt {b width n i : Nat} (hn : width * b ≤ n) (hi : i < n) : mirrorIndex b width i < n := by
  by_cases hpixel : i < width * b
  · obtain ⟨x, j, hx, hj, rfl⟩ := exists_pixel_of_lt hpixel
    have hlt : (width - 1 - x + 1) * b ≤ width * b := Nat.mul_le_mul_right b (by omega)
    rw [Nat.succ_mul] at hlt
    rw [mirrorIndex_pixel hx hj]
    omega
  · rwa [mirrorIndex_padding (Nat.not_lt.1 hpixel)]

/-- Two mirrors undo each other (45_geometry.md R262). -/
theorem mirrorIndex_mirrorIndex (b width i : Nat) : mirrorIndex b width (mirrorIndex b width i) = i := by
  by_cases hpixel : i < width * b
  · obtain ⟨x, j, hx, hj, rfl⟩ := exists_pixel_of_lt hpixel
    rw [mirrorIndex_pixel hx hj, mirrorIndex_pixel (by omega) hj, show width - 1 - (width - 1 - x) = x by omega]
  · rw [mirrorIndex_padding (Nat.not_lt.1 hpixel), mirrorIndex_padding (Nat.not_lt.1 hpixel)]

/-- From `m` to `m'` the row at `row` of `pitch` bytes mirrors its `width` pixels of `b` bits and keeps its padding; no
other byte changes. -/
abbrev RowMirrored (b width row pitch : Nat) (m m' : Mem) : Prop :=
  RowHolds row pitch (fun i => rowBit m row (mirrorIndex b width i)) m m'

/-- A row is mirrored where each pixel holds the bits of the one at the other end. -/
theorem rowMirrored_of_pixels {b width row pitch : Nat} {m m' : Mem}
    (hpixels : ∀ x j, x < width → j < b → rowBit m' row (x * b + j) = rowBit m row ((width - 1 - x) * b + j))
    (hpadding : ∀ i, width * b ≤ i → rowBit m' row i = rowBit m row i)
    (hkept : ∀ a, ¬(Region.mk row pitch).Has a → Mem.read m' a = Mem.read m a) :
    RowMirrored b width row pitch m m' where
  bits i _ := by
    by_cases hpixel : i < width * b
    · obtain ⟨x, j, hx, hj, rfl⟩ := exists_pixel_of_lt hpixel
      rw [mirrorIndex_pixel hx hj, hpixels x j hx hj]
    · rw [mirrorIndex_padding (Nat.not_lt.1 hpixel), hpadding i (Nat.not_lt.1 hpixel)]
  kept := hkept

/-- Byte `k` of a row of 1-bpp pixels after the mirror: the reversed byte of the other end, or past the pixels the byte
itself (45_geometry.md R253). -/
theorem mirrorRow1_read (nb row : Nat) (w : Work) (k : Nat) :
    Mem.read (mirrorRow1 nb row w).mem (row + k) =
      if k < nb then rev8 (Mem.read w.mem (row + (nb - 1 - k))) else Mem.read w.mem (row + k) := by
  have hpairs := forUpto_reverse (f := rev8) (get := fun (u : Work) k => Mem.read u.mem (row + k))
    (body := fun k u => (u.atCol k).swapBytes rev8 (row + k) (row + (nb - 1 - k))) (count := nb)
    (fun i u hi j => ?pair) w
  case pair =>
    rw [swapBytes_read]
    simp only [Nat.add_left_cancel_iff, work_atCol_mem]
    by_cases hleft : j = i
    · rw [if_pos hleft, if_neg (by omega), if_pos hleft]
    · rw [if_neg hleft, if_neg hleft]
  unfold mirrorRow1 forCols
  simp only
  generalize forUpto (nb / 2) _ w = u at hpairs ⊢
  by_cases hmiddle : 2 * k + 1 = nb
  · rw [if_pos (by omega), show row + nb / 2 = row + k by omega, work_write_mem, Mem.read_write_same, work_read_eq,
      hpairs, if_neg (by omega), if_pos (by omega), show nb - 1 - k = k by omega]
  · have hkept : Mem.read (if nb % 2 = 1 then u.write (row + nb / 2) (rev8 (u.read (row + nb / 2))) else u).mem
        (row + k) = Mem.read u.mem (row + k) := by
      split
      · exact Mem.read_write_ne _ _ (by omega)
      · rfl
    rw [hkept, hpairs]
    exact if_congr (by omega) rfl rfl

/-- The mirror of a 1-bpp row (45_geometry.md R253). -/
theorem mirrorRow1_mirrored {nb row pitch : Nat} (hpitch : nb ≤ pitch) (w : Work) :
    RowMirrored 1 (8 * nb) row pitch w.mem (mirrorRow1 nb row w).mem := by
  refine rowMirrored_of_pixels (fun x j hx hj => ?_) (fun i hi => ?_) fun a ha => ?_
  · have hbyte : (8 * nb - 1 - x) / 8 = nb - 1 - x / 8 := by omega
    have hplace : 7 - (8 * nb - 1 - x) % 8 = 7 - (7 - x % 8) := by omega
    obtain rfl : j = 0 := by omega
    simp only [Nat.mul_one, Nat.add_zero, rowBit, hbyte, hplace, mirrorRow1_read]
    rw [if_pos (by omega), rev8_getLsbD _ (by omega)]
  · rw [rowBit, rowBit, mirrorRow1_read, if_neg (by omega)]
  · have hvia : Mem.Via (Region.mk row pitch).Has w.mem (mirrorRow1 nb row w).mem :=
      mirrorRow1_via fun k hk => ⟨Nat.le_add_right .., Nat.add_lt_add_left (hk.trans_le hpitch) _⟩
    exact hvia.read_outside ha

/-- The bits of a nibble in the row. -/
theorem getNib_getLsbD (m : Mem) (row x : Nat) {j : Nat} (hj : j < 4) :
    (getNib m row x).getLsbD (3 - j) = rowBit m row (x * 4 + j) := by
  have hbyte : (x * 4 + j) / 8 = x / 2 := by omega
  simp only [getNib, rowBit, hbyte]
  split
  · rw [BitVec.getLsbD_extractLsb', show 7 - (x * 4 + j) % 8 = 4 + (3 - j) by omega]
    simp [show 3 - j < 4 by omega]
  · rw [BitVec.getLsbD_extractLsb', show 7 - (x * 4 + j) % 8 = 3 - j by omega]
    simp [show 3 - j < 4 by omega]

/-- Nibbles are equal where their bits are. -/
theorem getNib_eq_of_rowBit {m m' : Mem} {row row' x x' : Nat}
    (h : ∀ j, j < 4 → rowBit m' row' (x' * 4 + j) = rowBit m row (x * 4 + j)) : getNib m' row' x' = getNib m row x := by
  refine BitVec.eq_of_getLsbD_eq fun j hj => ?_
  have hbit := h (3 - j) (by omega)
  rwa [← getNib_getLsbD _ _ _ (by omega), ← getNib_getLsbD _ _ _ (by omega), show 3 - (3 - j) = j by omega] at hbit

/-- Nibble `x` of a row of 4-bpp pixels after the mirror (45_geometry.md R254). -/
theorem mirrorRow4_getNib (width row : Nat) (w : Work) (x : Nat) :
    getNib (mirrorRow4 width row w).mem row x =
      if x < width then getNib w.mem row (width - 1 - x) else getNib w.mem row x := by
  refine forUpto_reverse_id (get := fun (u : Work) x => getNib u.mem row x) (fun i u hi j => ?_) w x
  simp only [getNib_setNib, work_atCol_mem]
  by_cases hleft : j = i
  · rw [if_pos hleft, if_neg (by omega), if_pos hleft]
  · rw [if_neg hleft, if_neg hleft]

/-- The mirror of a 4-bpp row (45_geometry.md R254). -/
theorem mirrorRow4_mirrored {width row pitch : Nat} (hpitch : width * 4 ≤ 8 * pitch) (w : Work) :
    RowMirrored 4 width row pitch w.mem (mirrorRow4 width row w).mem := by
  refine rowMirrored_of_pixels (fun x j hx hj => ?_) (fun i hi => ?_) fun a ha => ?_
  · rw [← getNib_getLsbD _ _ _ hj, mirrorRow4_getNib, if_pos hx, getNib_getLsbD _ _ _ hj]
  · have hpixel : i / 4 * 4 + i % 4 = i := Nat.div_add_mod' i 4
    have hplace : i % 4 < 4 := Nat.mod_lt _ (by decide)
    rw [← hpixel, ← getNib_getLsbD _ _ _ hplace, mirrorRow4_getNib, if_neg (by omega), getNib_getLsbD _ _ _ hplace]
  · have hvia : Mem.Via (Region.mk row pitch).Has w.mem (mirrorRow4 width row w).mem :=
      mirrorRow4_via fun x hx => ⟨Nat.le_add_right .., Nat.add_lt_add_left (show x / 2 < pitch by omega) _⟩
    exact hvia.read_outside ha

/-- Byte `k` of a pixel of whole bytes after the mirror (45_geometry.md R255). -/
theorem mirrorRowBytes_read (n width row : Nat) (w : Work) {k : Nat} (hk : k < n) (x : Nat) :
    Mem.read (mirrorRowBytes n width row w).mem (row + x * n + k) =
      if x < width then Mem.read w.mem (row + (width - 1 - x) * n + k) else Mem.read w.mem (row + x * n + k) := by
  refine forUpto_reverse_id (get := fun (u : Work) x => Mem.read u.mem (row + x * n + k)) (fun i u hi j => ?_) w x
  exact swapBlocks_read (u.atCol i) (fun q v _ => by simp only [Nat.mul_comm n])
    (show i ≠ width - 1 - i by omega) hk j

/-- The mirror of a row of pixels of whole bytes (45_geometry.md R255). -/
theorem mirrorRowBytes_mirrored {n width row pitch : Nat} (hpitch : width * (8 * n) ≤ 8 * pitch) (w : Work) :
    RowMirrored (8 * n) width row pitch w.mem (mirrorRowBytes n width row w).mem := by
  have hvia {p : Nat} (hp : width * (8 * n) ≤ 8 * p) :
      Mem.Via (Region.mk row p).Has w.mem (mirrorRowBytes n width row w).mem :=
    mirrorRowBytes_via (pixel_byte_in_row hp fun k hk => ⟨Nat.le_add_right .., Nat.add_lt_add_left hk _⟩)
  have hsize : width * (8 * n) = 8 * (width * n) := Nat.mul_left_comm ..
  refine rowMirrored_of_pixels (fun x j hx hj => ?_) (fun i hi => ?_) fun a ha => (hvia hpitch).read_outside ha
  · have hbyte : ∀ y, row + (y * (8 * n) + j) / 8 = row + y * n + j / 8 := fun y => by
      rw [Nat.mul_left_comm, Nat.mul_add_div (by decide), Nat.add_assoc]
    have hplace : ∀ y, (y * (8 * n) + j) % 8 = j % 8 := fun y => by rw [Nat.mul_left_comm, Nat.mul_add_mod]
    rw [rowBit, rowBit, hbyte, hbyte, hplace, hplace, mirrorRowBytes_read n width row w (by omega), if_pos hx]
  · exact rowBit_congr ((hvia hsize.le).read_outside (by simp only [Region.Has]; omega))

/-- A row of the mirror at each depth, the skipped case aside (45_geometry.md R253 to R255). -/
theorem mirrorRow_mirrored {d : Bpp} {width row pitch : Nat} (hpitch : width * d.bits ≤ 8 * pitch)
    (hskip : d = .b1 → width % 8 = 0) (w : Work) :
    RowMirrored d.bits width row pitch w.mem (mirrorRow d width row w).mem := by
  cases d with
  | b1 =>
    have hwidth : 8 * (width / 8) = width := Nat.mul_div_cancel' (Nat.dvd_of_mod_eq_zero (hskip rfl))
    have hrow := mirrorRow1_mirrored (nb := width / 8) (row := row) (pitch := pitch)
      (by simp only [Bpp.bits] at hpitch; omega) w
    rwa [hwidth] at hrow
  | b4 => exact mirrorRow4_mirrored hpitch w
  | b8 => exact mirrorRowBytes_mirrored (n := 1) hpitch w
  | b24 => exact mirrorRowBytes_mirrored (n := 3) hpitch w
  | b32 => exact mirrorRowBytes_mirrored (n := 4) hpitch w

/-- A mirrored buffer: every row mirrors its pixels and keeps its padding (45_geometry.md R252). -/
theorem mirrorRows_planeHolds {d : Bpp} {base width height pitch : Nat} (hpitch : width * d.bits ≤ 8 * pitch)
    (hskip : d = .b1 → width % 8 = 0) (w : Work) :
    PlaneHolds base pitch height (fun y i => rowBit w.mem (base + y * pitch) (mirrorIndex d.bits width i)) w.mem
      (mirrorRows d base width height pitch w).mem := by
  rw [mirrorRows_eq]
  refine forUpto_induction (fun n (u : Work) => PlaneHolds base pitch n
    (fun y i => rowBit w.mem (base + y * pitch) (mirrorIndex d.bits width i)) w.mem u.mem) (.zero ..)
    fun y u _ hu => hu.succ ?_
  obtain ⟨hbits, hkept⟩ := mirrorRow_mirrored (row := base + y * pitch) hpitch hskip (u.atRow y)
  refine ⟨fun i hi => (hbits i hi).trans (rowBit_congr (hu.kept _ ?_)), hkept⟩
  have hcomm : y * pitch = pitch * y := Nat.mul_comm ..
  simp only [Region.Has]
  omega

end Sys2Proof.Machine
end

section
/-! The transforms in place (45_geometry.md R251 to R256, R261, R262): what VFLIP, MIRROR, ROT180 and INVERT leave of
the bits of the source, and that VFLIP, MIRROR and INVERT undo themselves. -/

namespace Sys2Proof.Machine

open Sys2Proof.Config (Params)

/-! ## Buffers transformed twice -/

namespace PlaneHolds

variable {base dp n : Nat} {bit bit' : Nat → Nat → Bool} {m m' m'' : Mem}

/-- A second transform that moves the bits within each row moves what the first one left there. -/
theorem moved {g : Nat → Nat} (h : PlaneHolds base dp n bit m m')
    (h' : PlaneHolds base dp n (fun y i => rowBit m' (base + y * dp) (g i)) m' m'')
    (hg : ∀ i, i < 8 * dp → g i < 8 * dp) :
    PlaneHolds base dp n (fun y i => bit y (g i)) m m'' where
  bits y i hy hi := (h'.bits y i hy hi).trans (h.bits y (g i) hy (hg i hi))
  kept a ha := (h'.kept a ha).trans (h.kept a ha)

/-- A second transform that gives each bit of the rows back leaves every byte as it was. -/
theorem restores (h : PlaneHolds base dp n bit m m') (h' : PlaneHolds base dp n bit' m' m'')
    (hback : ∀ y i, y < n → i < 8 * dp → bit' y i = rowBit m (base + y * dp) i) (a : Nat) :
    Mem.read m'' a = Mem.read m a := by
  have hsame : PlaneHolds base dp n (fun y i => rowBit m (base + y * dp) i) m m := ⟨fun _ _ _ _ => rfl, fun _ _ => rfl⟩
  have htwice : PlaneHolds base dp n bit' m m'' := ⟨h'.bits, fun a ha => (h'.kept a ha).trans (h.kept a ha)⟩
  exact (htwice.congr hback).read_eq hsame a

end PlaneHolds

/-! ## Ready sources -/

/-- Readiness of the source is a matter of the registers and the parameters. -/
theorem SourceReady.congr {s t : State} (h : SourceReady s) (hregs : t.regs = s.regs) (hparams : t.params = s.params) :
    SourceReady t := by
  obtain ⟨hwidth, hheight, hdepth, haligned, hpitch, hmemory⟩ := h
  constructor <;> rw [hregs]
  case inMemory => rwa [hparams]
  all_goals assumption

/-- A ready source has a legal depth (10_state.md R32). -/
theorem SourceReady.bppOf_eq {s : State} (h : SourceReady s) : ∃ d, bppOf s.regs.srcBpp = some d := by
  obtain ⟨hvalid, -, -⟩ := h.checks
  simp only [sourceInvalid, Bool.or_eq_false_iff] at hvalid
  exact Option.isSome_iff_exists.1 (by simpa using hvalid.2)

/-! ## MIRROR -/

/-- The bit MIRROR moves to bit `i` of its row: none moves where the mirror is skipped (45_geometry.md R252, R253). -/
def mirroredBit (r : Regs) (i : Nat) : Nat := if mirrorSkips r then i else mirrorIndex r.srcBpp.toNat r.width i

/-- The rows of a ready source hold the bits of its pixels (20_memory.md R67). -/
theorem SourceReady.pixels_le {s : State} (h : SourceReady s) :
    s.regs.width * s.regs.srcBpp.toNat ≤ 8 * s.regs.pitch := by
  obtain ⟨d, hd⟩ := h.bppOf_eq
  rw [bppOf_bits hd]
  exact pitchOk_holds_row h.pitch_ok hd

/-- A bit of a pixel is a bit of its row. -/
theorem SourceReady.pixel_bit_lt {s : State} (h : SourceReady s) {x j : Nat} (hx : x < s.regs.width)
    (hj : j < s.regs.srcBpp.toNat) : x * s.regs.srcBpp.toNat + j < 8 * s.regs.pitch := by
  have hpixels := h.pixels_le
  have hlt := Nat.mul_le_mul_right s.regs.srcBpp.toNat (Nat.succ_le_of_lt hx)
  rw [Nat.succ_mul] at hlt
  omega

theorem SourceReady.mirroredBit_lt {s : State} (h : SourceReady s) {i : Nat} (hi : i < 8 * s.regs.pitch) :
    mirroredBit s.regs i < 8 * s.regs.pitch := by
  unfold mirroredBit
  split
  · exact hi
  · exact mirrorIndex_lt h.pixels_le hi

theorem mirroredBit_mirroredBit (r : Regs) (i : Nat) : mirroredBit r (mirroredBit r i) = i := by
  unfold mirroredBit
  split
  · rfl
  · exact mirrorIndex_mirrorIndex ..

/-- Padding never moves (45_geometry.md R252). -/
theorem mirroredBit_padding {r : Regs} {i : Nat} (hi : r.width * r.srcBpp.toNat ≤ i) : mirroredBit r i = i := by
  unfold mirroredBit
  split
  · rfl
  · exact mirrorIndex_padding hi

/-- A pixel moves to the other end, its bits in their order, unless the mirror is skipped. -/
theorem mirroredBit_pixel {r : Regs} (hskip : mirrorSkips r = false) {x j : Nat} (hx : x < r.width)
    (hj : j < r.srcBpp.toNat) :
    mirroredBit r (x * r.srcBpp.toNat + j) = (r.width - 1 - x) * r.srcBpp.toNat + j := by
  rw [mirroredBit, hskip]
  exact mirrorIndex_pixel hx hj

/-- MIRROR leaves the moved bits in every row of the source (45_geometry.md R252 to R255). -/
theorem mirrorEffect_planeHolds {s : State} (h : SourceReady s) :
    PlaneHolds s.regs.base s.regs.pitch s.regs.height
      (fun y i => rowBit s.mem (s.regs.base + y * s.regs.pitch) (mirroredBit s.regs i)) s.mem (mirrorEffect s).mem := by
  obtain ⟨d, hd⟩ := h.bppOf_eq
  have hpitch := h.pixels_le
  unfold mirrorEffect mirroredBit
  cases hskip : mirrorSkips s.regs with
  | true => exact ⟨fun _ _ _ _ => rfl, fun _ _ => rfl⟩
  | false =>
    have hwhole : d = .b1 → s.regs.width % 8 = 0 := by
      rintro rfl
      simpa [mirrorSkips, hd] using hskip
    have hwork : (s.runWork mirrorWork).mem =
        (mirrorRows d s.regs.base s.regs.width s.regs.height s.regs.pitch s.work).mem := by
      simp only [runWork_mem, mirrorWork, hd]
    rw [bppOf_bits hd] at hpitch ⊢
    exact hwork ▸ mirrorRows_planeHolds hpitch hwhole s.work

/-- ROT180 moves the bits of the rows of the flipped source (45_geometry.md R256). -/
theorem rot180Effect_planeHolds {s : State} (h : SourceReady s) :
    PlaneHolds s.regs.base s.regs.pitch s.regs.height
      (fun y i => rowBit s.mem (s.regs.base + (s.regs.height - 1 - y) * s.regs.pitch) (mirroredBit s.regs i)) s.mem
      (rot180Effect s).mem :=
  (flipRows_planeHolds s.regs.base s.regs.height s.regs.pitch s.work).moved
    (mirrorEffect_planeHolds (s := s.runWork vflipWork) (h.congr rfl rfl)) fun _ => h.mirroredBit_lt

/-! ## INVERT -/

/-- INVERT inverts the bytes of the source and no other (45_geometry.md R261). -/
theorem invertWork_read (p : Params) (r : Regs) (w : Work) (a : Nat) :
    Mem.read (invertWork p r w).mem a = if (srcRegion r).Has a then ~~~Mem.read w.mem a else Mem.read w.mem a := by
  refine forUpto_induction (fun n (u : Work) => ∀ a, Mem.read u.mem a =
    if (Region.mk r.base n).Has a then ~~~Mem.read w.mem a else Mem.read w.mem a) (fun a => ?_) (fun n u _ hu a => ?_) a
  · rw [if_neg fun h => Nat.lt_irrefl _ (h.1.trans_lt h.2)]
  · rw [work_write_mem, Mem.read_write, work_read_eq]
    by_cases hlast : a = r.base + n
    · rw [if_pos hlast, hu, if_neg fun h => Nat.lt_irrefl _ h.2, ← hlast, if_pos (by simp only [Region.Has]; omega)]
    · rw [if_neg hlast, hu]
      exact if_congr (by simp only [Region.Has]; omega) rfl rfl

/-- The bits of an inverted buffer (45_geometry.md R261). -/
theorem invertWork_planeHolds (p : Params) (r : Regs) (w : Work) :
    PlaneHolds r.base r.pitch r.height (fun y i => !rowBit w.mem (r.base + y * r.pitch) i) w.mem
      (invertWork p r w).mem where
  bits y i hy hi := by
    have hin : (srcRegion r).Has (r.base + y * r.pitch + i / 8) := row_byte_in hy (by omega)
    rw [rowBit, rowBit, invertWork_read, if_pos hin, BitVec.getLsbD_not]
    simp [show 7 - i % 8 < 8 by omega]
  kept a ha := (invertWork_read p r w a).trans (if_neg ha)

/-! ## Transforms that undo themselves -/

theorem CompletedWith.regs {s t : State} {r : Regs} {skip : Bool} (h : CompletedWith s t r skip) : t.regs = r :=
  (congrArg State.regs h :)

theorem CompletedWith.params {s t : State} {r : Regs} {skip : Bool} (h : CompletedWith s t r skip) :
    t.params = s.params := (congrArg State.params h :)

/-- A transform in place that leaves the registers and moves or inverts the bits of the source, so that doing it twice
gives each bit back, leaves memory as it was when it runs twice (45_geometry.md R262). -/
theorem exec_twice {s : State} {i : Instr} {skip : Bool} {bits : Mem → Nat → Nat → Bool}
    (hi : i ∈ [Instr.vflip, .mirror, .rot180, .invert]) (hsource : SourceReady s)
    (hcompleted : CompletedWith s (complete (effectOf i s)) s.regs skip)
    (hplane : ∀ u : State, SourceReady u → u.regs = s.regs →
      PlaneHolds s.regs.base s.regs.pitch s.regs.height (bits u.mem) u.mem (effectOf i u).mem)
    (hback : ∀ m, (∀ y k, y < s.regs.height → k < 8 * s.regs.pitch →
        rowBit m (s.regs.base + y * s.regs.pitch) k = bits s.mem y k) →
      ∀ y k, y < s.regs.height → k < 8 * s.regs.pitch →
        bits m y k = rowBit s.mem (s.regs.base + y * s.regs.pitch) k) :
    ∃ t u, exec i s = .next t ∧ exec i t = .next u ∧ MemoryKept s u ∧ (Mem.wf s.mem → u.mem = s.mem) := by
  have hready : SourceReady (complete (effectOf i s)) := hsource.congr hcompleted.regs hcompleted.params
  have hfirst := exec_inPlace hi hsource
  have hsecond := exec_inPlace hi hready
  have honce := hplane s hsource rfl
  have hkept : MemoryKept s (complete (effectOf i (complete (effectOf i s)))) :=
    honce.restores (hplane (complete (effectOf i s)) hready hcompleted.regs) (hback _ honce.bits)
  refine ⟨_, _, hfirst, hsecond, hkept, fun hwf => ?_⟩
  exact Mem.eq_of_read ((exec_via hsecond).wf ((exec_via hfirst).wf hwf)) hwf hkept

end Sys2Proof.Machine

namespace Sys2Proof.Proofs

open Sys2Proof.Machine

/-- Settles O40: the exchanges reverse the rows byte for byte. -/
theorem vflipSwapsTheRows : Obligations.VflipSwapsTheRows := by
  intro s hsource
  have hflip := flipRows_planeHolds s.regs.base s.regs.height s.regs.pitch s.work
  refine ⟨_, exec_inPlace (i := .vflip) (by simp) hsource, completedWith_runWork s vflipWork, ?lines, hflip.kept,
    fun r k hr hk => ?bytes⟩
  case lines => exact (KeepsLines.flipRows s.regs.base s.regs.height s.regs.pitch).linesKept (body := vflipWork)
  case bytes => exact flipRows_read s.regs.base s.regs.height s.regs.pitch s.work hr hk

/-- Settles O41: each row holds the bits `mirroredBit` moves, which are those of the pixel at the other end, or the
row's own in the padding and where the mirror is skipped. -/
theorem mirrorReversesThePixels : Obligations.MirrorReversesThePixels := by
  intro s hsource
  obtain ⟨hbits, hkept⟩ := mirrorEffect_planeHolds hsource
  refine ⟨_, exec_inPlace (i := .mirror) (by simp) hsource, linesKept_mirrorEffect s, ?completed, ?skipped, hkept,
    fun r hr => ⟨fun hskip x j hx hj => ?pixels, fun i hi hlt => ?padding⟩⟩
  case completed => exact mirrorSkips_eq s.regs ▸ completedWith_mirrorEffect s
  case skipped =>
    rw [← mirrorSkips_eq]
    intro hskip
    simp [effectOf, mirrorEffect, hskip]
  case pixels =>
    rw [← mirrorSkips_eq] at hskip
    exact (hbits r _ hr (hsource.pixel_bit_lt hx hj)).trans (congrArg _ (mirroredBit_pixel hskip hx hj))
  case padding => exact (hbits r i hr hlt).trans (congrArg _ (mirroredBit_padding hi))

/-- Settles O42: each row holds the bits `mirroredBit` moves of the row at the other end of the buffer. -/
theorem rotateHalfTurnFlipsAndMirrors : Obligations.RotateHalfTurnFlipsAndMirrors := by
  intro s hsource
  obtain ⟨hbits, hkept⟩ := rot180Effect_planeHolds hsource
  refine ⟨_, exec_inPlace (i := .rot180) (by simp) hsource, ?lines, ?completed, hkept,
    fun r hr => ⟨fun hskip i hi => ?skipped, fun hskip x j hx hj => ?pixels, fun i hi hlt => ?padding⟩⟩
  case lines =>
    have hflip := (KeepsLines.flipRows s.regs.base s.regs.height s.regs.pitch).linesKept (body := vflipWork) (s := s)
    exact hflip.trans (linesKept_mirrorEffect (s.runWork vflipWork))
  case completed => exact mirrorSkips_eq s.regs ▸ completedWith_rot180Effect s
  case skipped =>
    rw [← mirrorSkips_eq] at hskip
    exact (hbits r i hr hi).trans (congrArg _ (if_pos hskip))
  case pixels =>
    rw [← mirrorSkips_eq] at hskip
    exact (hbits r _ hr (hsource.pixel_bit_lt hx hj)).trans (congrArg _ (mirroredBit_pixel hskip hx hj))
  case padding => exact (hbits r i hr hlt).trans (congrArg _ (mirroredBit_padding hi))

/-- Settles O46: a byte of region SRC is inverted once, by the round of its address. -/
theorem invertNegatesEveryByte : Obligations.InvertNegatesEveryByte := by
  intro s hsource
  refine ⟨_, exec_inPlace (i := .invert) (by simp) hsource, completedWith_runWork s invertWork,
    (KeepsLines.invertWork s.params s.regs).linesKept, (invertWork_planeHolds s.params s.regs s.work).kept,
    fun k hk => ?_⟩
  have hin : (srcRegion s.regs).Has (s.regs.base + k) := ⟨Nat.le_add_right .., Nat.add_lt_add_left hk _⟩
  have hbyte := (invertWork_read s.params s.regs s.work (s.regs.base + k)).trans (if_pos hin)
  exact (congrArg BitVec.toNat hbyte).trans BitVec.toNat_not

/-- Settles O47: each of the three is its own inverse on the bits of the source, and touches nothing else. -/
theorem transformsUndoThemselves : Obligations.TransformsUndoThemselves := by
  intro s i hi hsource
  obtain rfl | rfl | rfl := hi
  case inl =>
    refine exec_twice (bits := fun m y k => rowBit m (s.regs.base + (s.regs.height - 1 - y) * s.regs.pitch) k) (by simp)
      hsource (completedWith_runWork s vflipWork) (fun u _ hregs => ?_) fun m hm y k hy hk => ?_
    · rw [← hregs]; exact flipRows_planeHolds u.regs.base u.regs.height u.regs.pitch u.work
    · rw [hm _ k (by omega) hk, show s.regs.height - 1 - (s.regs.height - 1 - y) = y by omega]
  case inr.inl =>
    refine exec_twice (bits := fun m y k => rowBit m (s.regs.base + y * s.regs.pitch) (mirroredBit s.regs k)) (by simp)
      hsource (completedWith_mirrorEffect s) (fun u hready hregs => ?_) fun m hm y k hy hk => ?_
    · rw [← hregs]; exact mirrorEffect_planeHolds hready
    · rw [hm y _ hy (hsource.mirroredBit_lt hk), mirroredBit_mirroredBit]
  case inr.inr =>
    refine exec_twice (bits := fun m y k => !rowBit m (s.regs.base + y * s.regs.pitch) k) (by simp) hsource
      (completedWith_runWork s invertWork) (fun u _ hregs => ?_) fun m hm y k hy hk => ?_
    · rw [← hregs]; exact invertWork_planeHolds u.params u.regs u.work
    · rw [hm y k hy hk, Bool.not_not]

/-- Settles O45: at a depth other than 4 bpp the effect of both rotations is GEOM_SKIP alone. -/
theorem rotationsAtOtherDepthsAreSkipped : Obligations.RotationsAtOtherDepthsAreSkipped := by
  intro s i hi hsource hdepth
  have hskips : is4bpp s.regs = false := Bool.eq_false_iff.2 fun h => hdepth ((is4bpp_iff s.regs).1 h)
  have heffect : effectOf i s = setGeomSkip s := by
    obtain rfl | rfl := hi <;> simp [effectOf, rot90Effect, rot270Effect, hskips]
  have hexec := exec_rotation hi hsource fun h => absurd h hdepth
  rw [heffect] at hexec
  exact ⟨_, hexec, completedWith_setGeomSkip s, rfl, rfl, rfl, rfl⟩

end Sys2Proof.Proofs
end

section
/-! The rotations of a 4-bpp source (45_geometry.md R257 to R259, R262): the scratch buffer nibble by nibble, the
exchange of the registers, and the image after one ROT90 and after four. -/

namespace Sys2Proof.Machine

open Sys2Proof.Config (Params)

/-! ## The scratch buffer -/

/-- Where row `y` of the rotated image starts (45_geometry.md R257). -/
def scratchRow (r : Regs) (y : Nat) : Nat :=
  r.scratchBase.toNat + storageRow r.topdown r.width y * rotatedPitch r

/-- A byte written as two nibbles, read nibble by nibble. -/
theorem getNib_write_append (m : Mem) (row k x : Nat) (a b : BitVec 4) :
    getNib (Mem.write m (row + k) (a ++ b)) row x =
      if x / 2 = k then (if x % 2 = 0 then a else b) else getNib m row x := by
  have high : ∀ a b : BitVec 4, (a ++ b : BitVec 8).extractLsb' 4 4 = a := by decide
  have low : ∀ a b : BitVec 4, (a ++ b : BitVec 8).extractLsb' 0 4 = b := by decide
  simp only [getNib, Mem.read_write, Nat.add_left_cancel_iff]
  by_cases hk : x / 2 = k <;> simp only [hk, if_true, if_false, high, low]

/-- The registers a 4-bpp rotation works on: the rows hold the pixels, and the scratch buffer takes no byte of the
source (45_geometry.md R250). -/
structure Rotatable (r : Regs) : Prop where
  pitch : pitchOk r = true
  depth : bppOf r.srcBpp = some .b4
  apart : ∀ a, (srcRegion r).Has a → ¬(scratchRegion r).Has a

section rotation

variable {r : Regs} {m0 : Mem}

/-- A row of ROT90 writes its own bytes of the scratch buffer. -/
theorem rot90Row_via (r : Regs) (y : Nat) (w : Work) :
    Mem.Via (fun a => ∃ k, k < rotatedPitch r ∧ a = scratchRow r y + k) w.mem (rot90Row r y w).mem :=
  forCols_via fun k _ hk => .one ⟨k, hk, rfl⟩ _

theorem scratchRow_has {y k : Nat} (hy : y < r.width) (hk : k < rotatedPitch r) :
    (scratchRegion r).Has (scratchRow r y + k) := row_byte_in (storageRow_lt hy) hk

/-- The rows of the scratch buffer have no byte in common. -/
theorem scratchRow_inj {y y' k k' : Nat} (hy : y < r.width) (hy' : y' < r.width) (hk : k < rotatedPitch r)
    (hk' : k' < rotatedPitch r) (h : scratchRow r y + k = scratchRow r y' + k') : y = y' := by
  simp only [scratchRow, Nat.add_assoc, Nat.add_left_cancel_iff] at h
  have hstorage := congrArg (storageRow r.topdown r.width) (row_offset_inj hk hk' h).1
  rwa [storageRow_storageRow hy, storageRow_storageRow hy'] at hstorage

/-- A row of ROT90 holds the nibbles of the rotated image, made of the source that memory `m0` held (45_geometry.md
R257). -/
theorem rot90Row_getNib (h : Rotatable r) {y : Nat} (hy : y < r.width) {w : Work}
    (hsource : ∀ a, (srcRegion r).Has a → Mem.read w.mem a = Mem.read m0 a) {x : Nat} (hx : x < 2 * rotatedPitch r) :
    getNib (rot90Row r y w).mem (scratchRow r y) x = newNib r m0 y x := by
  obtain ⟨-, hnibbles⟩ : (∀ a, (srcRegion r).Has a → Mem.read (rot90Row r y w).mem a = Mem.read m0 a) ∧
      ∀ x, x < 2 * rotatedPitch r → getNib (rot90Row r y w).mem (scratchRow r y) x = newNib r m0 y x := by
    refine forUpto_induction (fun k (u : Work) => (∀ a, (srcRegion r).Has a → Mem.read u.mem a = Mem.read m0 a) ∧
      ∀ x, x < 2 * k → getNib u.mem (scratchRow r y) x = newNib r m0 y x) ⟨hsource, nofun⟩ fun k u hk hu => ?_
    obtain ⟨hkept, hdone⟩ := hu
    refine ⟨fun a ha => ?_, fun x hx => ?_⟩
    · refine (Mem.read_write_ne _ _ ?_).trans (hkept a ha)
      rintro rfl
      exact h.apart _ ha (scratchRow_has hy hk)
    · refine (getNib_write_append _ (scratchRow r y) k x _ _).trans ?_
      simp only [newNib_congr (m' := u.mem) h.pitch h.depth hy hkept, work_atCol_mem]
      by_cases hlast : x / 2 = k
      · rw [if_pos hlast]
        split
        · rw [show 2 * k = x by omega]
        · rw [show 2 * k + 1 = x by omega]
      · rw [if_neg hlast, hdone x (by omega)]
  exact hnibbles x hx

/-- The scratch buffer after ROT90 holds the nibbles of the rotated image (45_geometry.md R257). -/
theorem rot90Work_getNib (h : Rotatable r) (p : Params) (w : Work) {y x : Nat} (hy : y < r.width)
    (hx : x < 2 * rotatedPitch r) :
    getNib (rot90Work p r w).mem (scratchRow r y) x = newNib r w.mem y x := by
  obtain ⟨-, hrows⟩ : (∀ a, (srcRegion r).Has a → Mem.read (rot90Work p r w).mem a = Mem.read w.mem a) ∧
      ∀ y, y < r.width → getNib (rot90Work p r w).mem (scratchRow r y) x = newNib r w.mem y x := by
    refine forUpto_induction (fun n (u : Work) => (∀ a, (srcRegion r).Has a → Mem.read u.mem a = Mem.read w.mem a) ∧
      ∀ y, y < n → getNib u.mem (scratchRow r y) x = newNib r w.mem y x) ⟨fun _ _ => rfl, nofun⟩ fun n u hn hu => ?_
    obtain ⟨hkept, hdone⟩ := hu
    have hvia := rot90Row_via r n (u.atRow n)
    refine ⟨fun a ha => ?_, fun y hy => ?_⟩
    · refine (hvia.read_outside ?_).trans (hkept a ha)
      rintro ⟨k, hk, rfl⟩
      exact h.apart _ ha (scratchRow_has hn hk)
    · rcases Nat.lt_succ_iff_lt_or_eq.1 hy with hlt | rfl
      · refine (getNib_congr (hvia.read_outside ?_)).trans (hdone y hlt)
        rintro ⟨k, hk, heq⟩
        exact hlt.ne (scratchRow_inj (hlt.trans hn) hn (by omega) hk heq)
      · exact rot90Row_getNib (w := u.atRow y) h hn hkept hx
  exact hrows y hy

/-- Counting the rows from the other end is the same in the image and in storage (20_memory.md R66, 45_geometry.md
R251). -/
theorem storageRow_reverse (td : Bool) (h y : Nat) :
    h - 1 - storageRow td h y = storageRow td h (h - 1 - y) := by
  unfold storageRow
  split <;> rfl

/-- The flipped scratch buffer holds the rows of the rotated image from the other end (45_geometry.md R251, R259). -/
theorem flipRows_rot90Work_getNib (h : Rotatable r) (p : Params) (w : Work) {y x : Nat} (hy : y < r.width)
    (hx : x < 2 * rotatedPitch r) :
    getNib (flipRows r.scratchBase.toNat r.width (rotatedPitch r) (rot90Work p r w)).mem (scratchRow r y) x =
      newNib r w.mem (r.width - 1 - y) x := by
  rw [← rot90Work_getNib h p w (by omega) hx]
  simp only [getNib, scratchRow, ← storageRow_reverse,
    flipRows_read _ _ _ _ (storageRow_lt hy) (show x / 2 < rotatedPitch r by omega)]

/-- The mirror of a buffer of 4-bpp pixels, nibble by nibble (45_geometry.md R254). -/
theorem mirrorRows_getNib {base width height pitch : Nat} (hpitch : width * 4 ≤ 8 * pitch) (w : Work) {y x : Nat}
    (hy : y < height) (hx : x < 2 * pitch) :
    getNib (mirrorRows .b4 base width height pitch w).mem (base + y * pitch) x =
      getNib w.mem (base + y * pitch) (if x < width then width - 1 - x else x) := by
  have hbits := (mirrorRows_planeHolds (d := .b4) (base := base) (height := height) hpitch nofun w).bits
  refine getNib_eq_of_rowBit fun j hj => (hbits y (x * 4 + j) hy (by omega)).trans (congrArg _ ?_)
  split
  · exact mirrorIndex_pixel ‹_› hj
  · exact mirrorIndex_padding (show width * 4 ≤ x * 4 + j by omega)

/-- ROT270 turns the image of ROT90 by half a turn: new pixel `(x, y)` is old pixel `(W - 1 - y, x)`, and a pad nibble
is 0 (45_geometry.md R259). -/
theorem rot270Work_getNib (h : Rotatable r) (p : Params) (w : Work) {y x : Nat} (hy : y < r.width)
    (hx : x < 2 * rotatedPitch r) :
    getNib (rot270Work p r w).mem (scratchRow r y) x =
      if x < r.height then oldNib r w.mem (r.width - 1 - y) x else 0 := by
  have hheight : r.height * 4 ≤ 8 * rotatedPitch r := le_minPitch r.height 4
  refine (mirrorRows_getNib hheight _ (storageRow_lt hy) hx).trans ?_
  refine (flipRows_rot90Work_getNib h p w hy (by split <;> omega)).trans ?_
  unfold newNib
  by_cases hpixel : x < r.height
  · rw [if_pos hpixel, if_pos hpixel, if_pos (by omega), show r.height - 1 - (r.height - 1 - x) = x by omega]
  · rw [if_neg hpixel, if_neg hpixel, if_neg hpixel]

/-! ## The registers -/

/-- The new pitch fits its register (45_geometry.md R258). -/
theorem rotatedRegs_pitch (r : Regs) : (rotatedRegs r).srcPitch.toNat = rotatedPitch r := by
  have hheight := r.srcHeight.isLt
  have hsmall : leastPitch r.srcHeight.toNat 4 < 2 ^ 32 := by unfold leastPitch; omega
  exact (BitVec.toNat_ofNat ..).trans (Nat.mod_eq_of_lt hsmall)

/-- The rows of the scratch buffer are the rows of the image the exchanged registers name (45_geometry.md R258). -/
theorem srcRow_rotatedRegs (r : Regs) (y : Nat) : srcRow (rotatedRegs r) y = scratchRow r y := by
  rw [srcRow, rotatedRegs_pitch]
  rfl

/-- The pitch of a ready 4-bpp source is no less than the least one (20_memory.md R67). -/
theorem leastPitch_le_srcPitch {s : State} (hsource : SourceReady s) (hdepth : s.regs.srcBpp = 4) :
    leastPitch s.regs.srcWidth.toNat 4 ≤ s.regs.srcPitch.toNat := by
  have h := hsource.pitch
  rwa [hdepth] at h

end rotation

/-! ## A rotation as a command -/

section ready

variable {s : State}

/-- A ready source and a ready scratch buffer can be rotated. -/
theorem ScratchReady.rotatable (hscratch : ScratchReady s) (hsource : SourceReady s) : Rotatable s.regs where
  pitch := hsource.pitch_ok
  depth := by rw [hscratch.depth]; rfl
  apart _ := Apart.not_has (g := srcRegion s.regs) (h := scratchRegion s.regs) hscratch.apart

theorem ScratchReady.is4bpp_eq (h : ScratchReady s) : is4bpp s.regs = true := (is4bpp_iff s.regs).2 h.depth

/-- The state after a 4-bpp ROT90 (45_geometry.md R257, R258). -/
def rotated (s : State) : State := complete (exchangeSource (s.runWork rot90Work))

theorem exec_rot90 (hsource : SourceReady s) (hscratch : ScratchReady s) : exec .rot90 s = .next (rotated s) := by
  rw [exec_rotation (.inl rfl) hsource fun _ => hscratch, effectOf, rot90Effect, if_pos hscratch.is4bpp_eq, rotated]

theorem exec_rot270 (hsource : SourceReady s) (hscratch : ScratchReady s) :
    exec .rot270 s = .next (complete (exchangeSource (s.runWork rot270Work))) := by
  rw [exec_rotation (.inr rfl) hsource fun _ => hscratch, effectOf, rot270Effect, if_pos hscratch.is4bpp_eq]

theorem rotated_regs (s : State) : (rotated s).regs = rotatedRegs s.regs :=
  (completedWith_exchangeSource s rot90Work).regs

/-- Pixel `(x, y)` of a 4-bpp image, and past its width the pad nibbles of the row. -/
def pixel (s : State) (x y : Nat) : Nat := rowNibble s.mem (srcRow s.regs y) x

/-- The image after ROT90 (45_geometry.md R257). -/
theorem pixel_rotated (hsource : SourceReady s) (hscratch : ScratchReady s) {x y : Nat} (hy : y < s.regs.width)
    (hx : x < 2 * rotatedPitch s.regs) :
    pixel (rotated s) x y = if x < s.regs.height then pixel s y (s.regs.height - 1 - x) else 0 := by
  have hnibble := rot90Work_getNib (hscratch.rotatable hsource) s.params s.work hy hx
  rw [pixel, rotated_regs, srcRow_rotatedRegs, ← getNib_eq]
  refine (congrArg BitVec.toNat hnibble).trans ?_
  rw [newNib]
  split
  · exact getNib_eq ..
  · rfl

/-! ## Turning on -/

/-- The rotated source is ready again: its pitch is the least, and the scratch buffer passed V7 (45_geometry.md
R258). -/
theorem SourceReady.rotated (hsource : SourceReady s) (hscratch : ScratchReady s) : SourceReady (rotated s) := by
  obtain ⟨hwidth, hheight, hdepth, -, -, -⟩ := hsource
  have hmemory := hscratch.inMemory
  constructor <;> rw [rotated_regs]
  case width => exact hheight
  case height => exact hwidth
  case depth => exact hdepth
  case aligned => rw [rotatedRegs_pitch]; unfold rotatedPitch minPitch; omega
  case pitch => rw [rotatedRegs_pitch, show (rotatedRegs s.regs).srcBpp = 4 from hscratch.depth]; exact Nat.le_refl _
  case inMemory => rw [rotatedRegs_pitch]; exact hmemory

/-- The old source is a ready scratch buffer: the least pitch for its width is no more than its own (45_geometry.md
R258). -/
theorem ScratchReady.rotated (hsource : SourceReady s) (hscratch : ScratchReady s) : ScratchReady (rotated s) := by
  have hsize : leastPitch s.regs.srcWidth.toNat 4 * s.regs.srcHeight.toNat ≤
      s.regs.srcPitch.toNat * s.regs.srcHeight.toNat :=
    Nat.mul_le_mul_right _ (leastPitch_le_srcPitch hsource hscratch.depth)
  have hmemory := hsource.inMemory
  have hapart := hscratch.apart
  constructor <;> rw [rotated_regs]
  case depth => exact hscratch.depth
  case inMemory => exact (Nat.add_le_add_left hsize _).trans hmemory
  case apart =>
    rw [rotatedRegs_pitch]
    exact fun ⟨hlt, hgt⟩ => hapart ⟨hgt, hlt.trans_le (Nat.add_le_add_left hsize _)⟩

/-- Two turns take a pixel to the opposite place (45_geometry.md R262). -/
theorem pixel_rotated_rotated (hsource : SourceReady s) (hscratch : ScratchReady s) {x y : Nat} (hx : x < s.regs.width)
    (hy : y < s.regs.height) :
    pixel (Machine.rotated (Machine.rotated s)) x y = pixel s (s.regs.width - 1 - x) (s.regs.height - 1 - y) := by
  have hwidth : s.regs.width * 4 ≤ 8 * rotatedPitch (Machine.rotated s).regs := le_minPitch s.regs.width 4
  have hheight : s.regs.height * 4 ≤ 8 * rotatedPitch s.regs := le_minPitch s.regs.height 4
  have hturn := pixel_rotated (hsource.rotated hscratch) (hscratch.rotated hsource) (x := x) (y := y) hy (by omega)
  refine (hturn.trans (if_pos hx)).trans ?_
  exact (pixel_rotated hsource hscratch (Nat.sub_one_sub_lt_of_lt hx) (by omega)).trans (if_pos hy)

end ready

end Sys2Proof.Machine

namespace Sys2Proof.Proofs

open Sys2Proof.Machine

/-- Settles O43: the scratch buffer holds the rotated image, and the exchanged registers name its rows. -/
theorem rotateQuarterTurnClockwise : Obligations.RotateQuarterTurnClockwise := by
  intro s hsource hscratch
  refine ⟨_, exec_rot90 hsource hscratch, completedWith_exchangeSource s rot90Work,
    (KeepsLines.rot90Work s.params s.regs).linesKept, ?outside, fun y x hy hx => ?nibbles⟩
  case outside => exact fun a ha => (rot90Work_via_scratch s.params s.regs s.work).read_outside ha
  case nibbles =>
    have himage := pixel_rotated hsource hscratch hy hx
    rwa [pixel, rotated_regs] at himage

/-- Settles O44: the scratch buffer holds the image of ROT90 turned by half a turn, and the exchanged registers name its
rows. -/
theorem rotateQuarterTurnCounterClockwise : Obligations.RotateQuarterTurnCounterClockwise := by
  intro s hsource hscratch
  refine ⟨_, exec_rot270 hsource hscratch, completedWith_exchangeSource s rot270Work,
    (KeepsLines.rot270Work s.params s.regs).linesKept, ?outside, fun y x hy hx => ?nibbles⟩
  case outside => exact fun a ha => (rot270Work_via_scratch s.params s.regs s.work).read_outside ha
  case nibbles =>
    have hnibble := rot270Work_getNib (hscratch.rotatable hsource) s.params s.work hy hx
    rw [srcRow_rotatedRegs, ← getNib_eq]
    refine (congrArg BitVec.toNat hnibble).trans ?_
    rw [apply_ite BitVec.toNat]
    exact if_congr Iff.rfl (getNib_eq ..) rfl

/-- Settles O48: each turn leaves a ready source and scratch buffer, and four of them take a pixel back to its place. -/
theorem fourQuarterTurnsRestoreTheImage : Obligations.FourQuarterTurnsRestoreTheImage := by
  intro s hsource hscratch
  have hsource1 := hsource.rotated hscratch
  have hscratch1 := hscratch.rotated hsource
  have hsource2 := hsource1.rotated hscratch1
  have hscratch2 := hscratch1.rotated hsource1
  have hsource3 := hsource2.rotated hscratch2
  have hscratch3 := hscratch2.rotated hsource2
  refine ⟨_, _, _, _, exec_rot90 hsource hscratch, exec_rot90 hsource1 hscratch1, exec_rot90 hsource2 hscratch2,
    exec_rot90 hsource3 hscratch3, ?registers, fun y x hy hx => ?pixels⟩
  case registers => simp only [rotated_regs]; rfl
  case pixels =>
    have hrow : y < s.regs.height := hy
    change pixel (rotated (rotated (rotated (rotated s)))) x y = if x < s.regs.width then pixel s x y else 0
    split
    case isTrue hcol =>
      have hhalf := pixel_rotated_rotated hsource hscratch (Nat.sub_one_sub_lt_of_lt hcol)
        (Nat.sub_one_sub_lt_of_lt hrow)
      rw [Nat.sub_sub_self (Nat.le_sub_one_of_lt hcol), Nat.sub_sub_self (Nat.le_sub_one_of_lt hrow)] at hhalf
      exact (pixel_rotated_rotated hsource2 hscratch2 hcol hrow).trans hhalf
    case isFalse hpad => exact (pixel_rotated hsource3 hscratch3 hrow hx).trans (if_neg hpad)

end Sys2Proof.Proofs
end

section
/-! Errors and the interrupt (60_exceptions.md R307, R315, R316): an error a command raises is that of a check that
fails, and the interrupt after a command and after the host's writes to CTRL, STATUS and CMD. -/

namespace Sys2Proof.Machine

/-! ## The error a command raises -/

/-- ERR rises with the code of a check that fails: a command that completes leaves ERR alone. -/
theorem checkFails_errCode_of_exec {i : Instr} {s t : State} (h : exec i s = .next t) (hs : s.status.err = false)
    (ht : t.status.err = true) : CheckFails s i t.status.errCode.toNat := by
  obtain ⟨e, he, rfl⟩ | ⟨-, rfl⟩ := runCommand_cases ((exec_eq i s).symm.trans h)
  · exact (checkFails_code_iff s i e).2 (validate_eq_some he).1
  · rw [complete_status, effectOf_err, hs] at ht
    cases ht

/-! ## The registers a command writes -/

/-- An effect writes no register, RESULT alone (10_state.md R30), the planes' metadata (44_packer.md R221), or the
source registers of a rotation (45_geometry.md R258). -/
theorem effectOf_regs_cases (i : Instr) (s : State) :
    (effectOf i s).regs = s.regs ∨ (∃ v, (effectOf i s).regs = (setResult v s).regs) ∨
      (∃ dp np, (effectOf i s).regs = (publishPlanes dp np s).regs) ∨
      (effectOf i s).regs = (exchangeSource s).regs := by
  have rotation : ∀ b, (if is4bpp s.regs then exchangeSource (s.runWork b) else setGeomSkip s).regs = s.regs ∨
      (if is4bpp s.regs then exchangeSource (s.runWork b) else setGeomSkip s).regs = (exchangeSource s).regs := by
    intro b
    split
    · exact .inr rfl
    · exact .inl rfl
  cases i with
  | sample x y => exact .inr (.inl ⟨_, rfl⟩)
  | matchColour r g b =>
    simp only [effectOf, matchEffect]
    split
    · exact .inr (.inl ⟨_, rfl⟩)
    · exact .inl rfl
  | dcolor => simp only [effectOf, dcolorEffect]; split <;> exact .inl rfl
  | pack =>
    simp only [effectOf, packEffect]
    split
    · exact .inr (.inr (.inl ⟨_, _, rfl⟩))
    · exact .inl rfl
  | dgrey => exact .inr (.inr (.inl ⟨_, _, rfl⟩))
  | copy1 => exact .inr (.inr (.inl ⟨_, _, rfl⟩))
  | mirror => exact .inl (mirrorEffect_regs s)
  | rot180 => exact .inl (mirrorEffect_regs _)
  | rot90 => exact (rotation rot90Work).imp_right fun h => .inr (.inr h)
  | rot270 => exact (rotation rot270Work).imp_right fun h => .inr (.inr h)
  | nop => exact .inl rfl
  | vflip => exact .inl rfl
  | invert => exact .inl rfl

/-- No effect writes CTRL.IRQ_EN: the host alone does (10_state.md R23). -/
theorem effectOf_irqEn (i : Instr) (s : State) : (effectOf i s).regs.irqEn = s.regs.irqEn := by
  obtain h | ⟨v, h⟩ | ⟨dp, np, h⟩ | h := effectOf_regs_cases i s <;> rw [h] <;> rfl

/-- No command writes CTRL.IRQ_EN, whether it ends in an error or completes. -/
theorem exec_irqEn {i : Instr} {s t : State} (h : exec i s = .next t) : t.regs.irqEn = s.regs.irqEn := by
  obtain ⟨e, -, rfl⟩ | ⟨-, rfl⟩ := runCommand_cases ((exec_eq i s).symm.trans h)
  · rfl
  · exact effectOf_irqEn i s

/-- DONE is 1 after every command (40_command.md R126, R127). -/
theorem exec_done {i : Instr} {s t : State} (h : exec i s = .next t) : t.status.done = true := by
  obtain ⟨u, hu, -, hdone, -⟩ := exec_ends i s
  cases h.symm.trans hu
  exact hdone

/-! ## The port at CTRL and STATUS -/

/-- A host write to CTRL while the engine is idle and reset is low (10_state.md R23). -/
theorem hostRegWrite_ctrl {s : State} (hr : s.inReset = false) (hb : s.status.busy = false) (v : Word) :
    hostRegWrite 0x004 .word v s = .next { s with regs := writeReg s.regs v .ctrl } := by
  rw [hostRegWrite_word rfl hr]
  exact congrArg Host.Outcome.next (if_neg (by simp [hb]))

/-- A host write to STATUS while reset is low, whether or not a command runs (10_state.md R24). -/
theorem hostRegWrite_status {s : State} (hr : s.inReset = false) (v : Word) :
    hostRegWrite 0x008 .word v s = .next (acknowledge v s) := hostRegWrite_word rfl hr v

/-! ## The interrupt -/

/-- A command ends with the interrupt at IRQ_EN (60_exceptions.md R316). -/
theorem irq_of_exec {i : Instr} {s t : State} (h : exec i s = .next t) : irq t = s.regs.irqEn := by
  rw [irq, exec_irqEn h, exec_done h, Bool.and_true]

/-- After a write to CTRL the interrupt is DONE under the new IRQ_EN, bit 4 of the word written. -/
theorem irq_ctrlWrite (s : State) (v : Word) :
    irq { s with regs := writeReg s.regs v .ctrl } = (decide (v.toNat / 2 ^ 4 % 2 = 1) && s.status.done) :=
  congrArg (· && s.status.done) (Nat.testBit_eq_decide_div_mod_eq (x := v.toNat) (i := 4))

/-- An acknowledgement lowers the interrupt where it clears DONE and leaves it alone where it does not. -/
theorem irq_acknowledge (s : State) (v : Word) : irq (acknowledge v s) = (irq s && !decide (v.toNat / 2 % 2 = 1)) := by
  have bit : v.getLsbD 1 = decide (v.toNat / 2 % 2 = 1) := Nat.testBit_eq_decide_div_mod_eq
  rw [← bit, irq, irq, Bool.and_assoc]
  rfl

/-- Acceptance lowers the interrupt with DONE (40_command.md R122). -/
theorem irq_accept (w : Word) (s : State) : irq (accept w s) = false := Bool.and_false _

end Sys2Proof.Machine

namespace Sys2Proof.Proofs

open Sys2Proof.Machine

/-- Settles O21: a SAMPLE outside the image fails check V6, so V6 is its first failed check where no earlier one fails;
and code 6 is raised only where V6 fails, which it does for SAMPLE alone. -/
theorem coordRangeIsSamplesAlone : Obligations.CoordRangeIsSamplesAlone := by
  constructor
  · intro s x y hearlier houtside
    exact (firstFailedCheckNamesTheError (.sample x y) s).1 6 ⟨x, y, rfl, houtside⟩ hearlier
  · intro i s t h hs ht hcode
    have hfails := checkFails_errCode_of_exec h hs ht
    rw [hcode] at hfails
    exact hfails

/-- Settles O49: a command sets DONE and leaves IRQ_EN alone; a write to CTRL sets IRQ_EN, one to STATUS clears DONE
where its bit 1 is set, and an accepted one to CMD clears DONE. -/
theorem interruptFollowsDone : Obligations.InterruptFollowsDone := by
  refine ⟨fun i s t h => irq_of_exec h, fun s hr hb => ⟨fun v => ?ctrl, fun v hv => ?status, fun w herr => ?cmd⟩⟩
  case ctrl => exact ⟨_, hostRegWrite_ctrl hr hb v, irq_ctrlWrite s v⟩
  case status =>
    refine ⟨_, hostRegWrite_status hr v, ?_⟩
    rw [irq_acknowledge, decide_eq_true hv, Bool.not_true, Bool.and_false]
  case cmd => exact ⟨_, onlyAnAcceptedCmdWriteStartsACommand.1 s w hr hb herr, irq_accept w s⟩

end Sys2Proof.Proofs
end

section
/-! The reset input (70_reset_and_hazards.md R340 to R344): what its assertion leaves of the machine and of memory, what
the port then answers, how a running command can end, and what the machine can do right after reset. -/

namespace Sys2Proof.Machine

/-! ## Assertion -/

/-- Asserting reset puts every register but the palette at its reset value and keeps the parameters, the internal state
and the host's pending actions (70_reset_and_hazards.md R340, R341). -/
theorem assertReset_eq (s : State) :
    ∃ m n, assertReset s =
      { s with
        regs := { Regs.reset with pal := freePalette n }
        status := Status.reset
        cmdWord := 0
        mem := m
        inReset := true
        raced := false
        fresh := n + 256 } := by
  obtain ⟨m, n, h, -⟩ := scramble_other (runningWrites s) s
  exact ⟨m, n, by rw [assertReset, h]⟩

@[simp] theorem assertReset_inputs (s : State) : (assertReset s).inputs = s.inputs := by
  obtain ⟨m, n, h⟩ := assertReset_eq s
  rw [h]

/-- With no command running, or an illegal word, there is no write region (20_memory.md R70, log entry 9). -/
theorem runningWrites_eq_nil {s : State} (h : s.status.busy = false ∨ ∃ e, decode s.cmdWord = .error e) :
    runningWrites s = [] := by
  obtain hidle | ⟨e, he⟩ := h
  · simp [runningWrites, hidle]
  · simp [runningWrites, he]

/-- The bytes a running command may write lie in its write regions; an idle engine writes none. -/
theorem inRegions_writeRegions_of_running {s : State} {i : Instr} {a : Nat} (hd : decode s.cmdWord = .ok i)
    (ha : InRegions (runningWrites s) a) : InRegions (writeRegions s.regs i) a := by
  cases hb : s.status.busy with
  | false =>
    rw [runningWrites_eq_nil (.inl hb)] at ha
    simp [InRegions] at ha
  | true =>
    rw [runningWrites_busy hb hd] at ha
    exact (inRegions_commandWrites.1 ha).1

/-! ## The port under reset and after it -/

/-- While reset is asserted a whole aligned register write changes nothing (70_reset_and_hazards.md R340). -/
theorem hostRegWrite_inReset {s : State} {o : BitVec 11} (ho : o.toNat % 4 = 0) (hr : s.inReset = true) (v : Word) :
    hostRegWrite o .word v s = .next s := by
  simp [hostRegWrite, portAccessOk, ho, hr]

/-- The palette stands at offset 0x400 and above (10_state.md R20). -/
theorem le_of_portRegAt_eq_pal {o : BitVec 11} {i : Fin 256} (h : portRegAt o = .pal i) : 0x400 ≤ o.toNat := by
  unfold portRegAt at h
  split at h
  case h_24 => split at h <;> [assumption; cases h]
  all_goals cases h

/-- Registers at their reset values, whatever the palette holds, read as those of the machine right after reset, but for
the palette itself. -/
theorem readPort_eq_reset {s : State} {pal : Vector (BitVec 24) 256} (hregs : s.regs = { Regs.reset with pal := pal })
    (hstatus : s.status = Status.reset) {g : PortReg} (hg : ∀ i, g ≠ .pal i) :
    readPort s g = readPort State.reset g := by
  cases g with
  | pal i => exact absurd rfl (hg i)
  | status => rw [readPort, hstatus]; rfl
  | id | cmd | reserved => rfl
  | _ => rw [readPort, hregs]; rfl

/-- The rows of 10_state.md R47 are aligned offsets below the palette, and name what `State.reset` reads there. -/
theorem resetValues_read : ∀ e ∈ resetValues,
    e.1.toNat % 4 = 0 ∧ e.1.toNat < 0x400 ∧ readPort State.reset (portRegAt e.1) = e.2 := by
  rw [← List.forall_iff_forall_mem]
  decide

/-- Out of reset, registers at their reset values answer every read with the value of 10_state.md R47. -/
theorem hostRegRead_resetValue {s : State} {pal : Vector (BitVec 24) 256}
    (hregs : s.regs = { Regs.reset with pal := pal }) (hstatus : s.status = Status.reset) (hr : s.inReset = false)
    {e : BitVec 11 × Word} (he : e ∈ resetValues) : hostRegRead e.1 .word s = .next { s with readData := e.2 } := by
  obtain ⟨haligned, hlow, hvalue⟩ := resetValues_read e he
  have hpal : ∀ i, portRegAt e.1 ≠ .pal i := fun i h => Nat.not_lt.2 (le_of_portRegAt_eq_pal h) hlow
  rw [hostRegRead_word haligned hr, readPort_eq_reset hregs hstatus hpal, hvalue]

/-! ## How a running command ends -/

/-- Settling a race leaves STATUS as the command left it (20_memory.md R75). -/
theorem settleRace_status (i : Instr) (s t : State) : (settleRace i s t).status = t.status := by
  cases hr : s.raced with
  | false => rw [settleRace_clean hr]
  | true =>
    obtain ⟨v, k, m, h, -, -⟩ := settleRace_raced (i := i) (t := t) hr
    rw [h]

/-- The engine's run of an accepted word ends with DONE, whether the word is illegal, fails a check or completes
(40_command.md R125 to R127). -/
theorem runAccepted_done {s t : State} (h : runAccepted s = .next t) : t.status.done = true := by
  cases hd : decode s.cmdWord with
  | error e =>
    rw [runAccepted_illegal hd] at h
    cases h
    rfl
  | ok i =>
    obtain ⟨u, hu, -, hdone, -⟩ := exec_ends i s
    rw [runAccepted_next hd hu] at h
    cases h
    rw [settleRace_status, hdone]

/-- No write to the port ends a running command. -/
theorem writePort_busy {s : State} (hb : s.status.busy = true) (g : PortReg) (v : Word) :
    (writePort g v s).status.busy = true := by
  cases g with
  | status => exact hb
  | _ => simp [writePort, hb]

theorem hostRegWrite_busy {o : BitVec 11} {width : AccessWidth} {v : Word} {s t : State}
    (h : hostRegWrite o width v s = .next t) (hb : s.status.busy = true) : t.status.busy = true := by
  unfold hostRegWrite at h
  split at h
  · cases h
    split
    · exact hb
    · exact writePort_busy hb _ v
  · cases h

/-- Of the actions of the host and the platform, the wait for the engine ends a running command with DONE, assertion of
reset abandons it, and no other ends it. -/
theorem hostStep_ends {e : HostEvent} {s t : State} (h : hostStep e s = .next t) (hb : s.status.busy = true)
    (ht : t.status.busy = false) : t.status.done = true ∨ e = .assertReset ∧ t.status = Status.reset := by
  have running : t.status.busy ≠ true := by simp [ht]
  have changed : t.status ≠ s.status := fun hst => running (by rw [hst, hb])
  cases e with
  | regWrite o width v => exact absurd (hostRegWrite_busy h hb) running
  | regRead o width => exact absurd (hostRegRead_status h) changed
  | memWrite a v => exact absurd (hostMemWrite_status h) changed
  | memRead a => exact absurd (hostMemRead_status h) changed
  | assertReset => cases h; exact .inr ⟨rfl, rfl⟩
  | releaseReset => cases h; exact absurd rfl changed
  | engineTurn => exact .inl (runAccepted_done ((engineStep_busy hb).symm.trans h))

/-! ## The machine right after reset -/

/-- Right after reset a word is accepted at once, and the next step runs the command it decodes to (40_command.md R120,
R128). -/
theorem step_accept_reset {w : Word} {i : Instr} (hd : decode w = .ok i) :
    step (accept w State.reset) = exec i (accept w State.reset) :=
  (step_nil rfl).trans (engineStep_exec rfl hd rfl)

/-- Right after reset the source has width 0, so check V2 is the first to fail (40_command.md R123). -/
theorem exec_reset_source {i : Instr} (hi : ReadsSource i) (w : Word) :
    exec i (accept w State.reset) = .next (errorState (accept w State.reset) 2) := by
  refine (Proofs.firstFailedCheckNamesTheError i _).1 2 ⟨hi, .inl rfl⟩ fun k hk => ?_
  match k, hk with
  | 0, _ => exact id
  | 1, _ => exact id

/-- RESULT of MATCH in BINARY mode: luma above the grey threshold's answer (42_matcher.md R161, R167, R170). -/
theorem matchResult_binary_toNat (r : Regs) (c : Rgb) :
    (matchResult .binary r c).toNat =
      (2 * c.g.toNat + c.r.toNat + c.b.toNat) / 4 * 2 ^ 8 +
        (if r.thrGrey.toNat ≤ (2 * c.g.toNat + c.r.toNat + c.b.toNat) / 4 then 1 else 0) := by
  rw [matchResult_toNat, matchSymbol, matchBinary, grey_toNat, luma]

end Sys2Proof.Machine

namespace Sys2Proof.Proofs

open Sys2Proof.Machine

/-- Settles O15: reset writes free values where the running command may write, and an idle engine or an illegal word
has no such place. -/
theorem resetKeepsMemory : Obligations.ResetKeepsMemory := by
  intro s
  refine ⟨assertReset s, rfl, fun hnone a => ?_, fun i hd a ha => ?_⟩
  · refine (assertReset_mem s).read_outside ?_
    simp [runningWrites_eq_nil hnone, InRegions]
  · refine (assertReset_mem s).read_outside fun hin => ?_
    obtain ⟨g, hg, hga⟩ := inRegions_writeRegions.1 (inRegions_writeRegions_of_running hd hin)
    exact ha g hg hga

/-- Settles O16: assertion sets the registers and STATUS, release changes the reset input alone, and the port then reads
the registers at their reset values. -/
theorem platformResetRestoresRegisters : Obligations.PlatformResetRestoresRegisters := by
  intro s
  exact ⟨assertReset s, rfl, assertReset_inputs s, rfl, fun o v ho => hostRegWrite_inReset ho rfl v,
    releaseReset (assertReset s), rfl, rfl, rfl, rfl, fun _ he => hostRegRead_resetValue rfl rfl rfl he⟩

/-- Settles O18: with no action pending the engine runs the word to its end; else the host's action decides. -/
theorem onlyResetAbandonsACommand : Obligations.OnlyResetAbandonsACommand := by
  intro s t h hb ht
  cases hi : s.inputs with
  | nil =>
    rw [step_nil hi, engineStep_busy hb] at h
    exact .inl (runAccepted_done h)
  | cons e rest =>
    rw [step_cons hi] at h
    exact (hostStep_ends h hb ht).imp_right fun ⟨he, hst⟩ => ⟨rest, by rw [he], hst⟩

/-- Settles O17: the word is accepted and the next step runs its command; NOP fails no check, MATCH none in BINARY mode,
and a source of width 0 fails check V2. -/
theorem readyAfterReset : Obligations.ReadyAfterReset := by
  intro w
  refine ⟨accept w State.reset, onlyAnAcceptedCmdWriteStartsACommand.1 State.reset w rfl rfl rfl, fun hd => ?nop,
    fun r g b hd => ?matchColour, fun i hd hi => ?source⟩ <;> rw [step_accept_reset hd]
  case nop => exact ⟨_, exec_of_passed (validate_nop _ _), rfl⟩
  case matchColour =>
    obtain ⟨c, hc, rfl, rfl, rfl⟩ := operandColour_of_wellFormed (wellFormed_of_decode hd)
    refine ⟨_, exec_matchColour (m := .binary) rfl _ _ _, rfl, ?_⟩
    rw [hc]
    exact matchResult_binary_toNat _ c
  case source => exact exec_reset_source hi w

end Sys2Proof.Proofs
end

section
/-! The register map (10_state.md R20): where each register of the port stands, which bits it implements and which of
them a host may write, and the tables of the statements read off that map. -/

namespace Sys2Proof.Machine

/-! ## Where a register stands -/

/-- The byte offset of a register of 10_state.md R20; the reserved offsets (R44) are
many, of which the first stands for all. -/
def PortReg.offset : PortReg → BitVec 11
  | .id => 0x000
  | .ctrl => 0x004
  | .status => 0x008
  | .cmd => 0x00C
  | .errCmd => 0x010
  | .result => 0x014
  | .dstPitch => 0x018
  | .planeBytes => 0x01C
  | .planes => 0x020
  | .srcBase => 0x040
  | .srcWidth => 0x044
  | .srcHeight => 0x048
  | .srcBpp => 0x04C
  | .srcPitch => 0x050
  | .dst0Base => 0x054
  | .dst1Base => 0x058
  | .scratchBase => 0x05C
  | .thrGrey => 0x080
  | .thr3 => 0x084
  | .thr4 => 0x088
  | .margin => 0x08C
  | .colorRed => 0x090
  | .colorYel => 0x094
  | .pal i => BitVec.ofNat 11 (0x400 + 4 * i)
  | .reserved => 0x024

theorem palOffset_toNat (i : Fin 256) : (PortReg.pal i).offset.toNat = 0x400 + 4 * i := by
  rw [PortReg.offset, BitVec.toNat_ofNat]
  omega

theorem PortReg.offset_aligned (g : PortReg) : g.offset.toNat % 4 = 0 := by
  cases g with
  | pal i => rw [palOffset_toNat]; omega
  | _ => rfl

/-- An offset in the palette's range names the entry it falls in (10_state.md R40). -/
theorem portRegAt_of_le {o : BitVec 11} (h : 0x400 ≤ o.toNat) :
    portRegAt o = .pal ⟨(o.toNat - 0x400) / 4 % 256, Nat.mod_lt _ (by decide)⟩ := by
  unfold portRegAt
  split
  case h_24 => exact if_pos h
  all_goals omega

@[simp] theorem portRegAt_offset (g : PortReg) : portRegAt g.offset = g := by
  cases g with
  | pal i =>
    have hi := palOffset_toNat i
    rw [portRegAt_of_le (by omega), PortReg.pal.injEq]
    apply Fin.ext
    simp only [hi]
    omega
  | _ => rfl

/-- An aligned offset that is not reserved is its register's. -/
theorem offset_portRegAt {o : BitVec 11} (ho : o.toNat % 4 = 0) (h : portRegAt o ≠ .reserved) :
    (portRegAt o).offset = o := by
  apply BitVec.eq_of_toNat_eq
  by_cases hpal : 0x400 ≤ o.toNat
  · rw [portRegAt_of_le hpal, palOffset_toNat]
    have := o.isLt
    simp only
    omega
  · unfold portRegAt at h ⊢
    split
    case h_24 => simp [hpal] at h
    all_goals simp_all [PortReg.offset]

/-- Two aligned offsets of one register that is not reserved are the same. -/
theorem portRegAt_eq_iff {o : BitVec 11} {g : PortReg} (ho : o.toNat % 4 = 0) (hg : g ≠ .reserved) :
    portRegAt o = g ↔ o = g.offset := by
  constructor
  · rintro rfl
    exact (offset_portRegAt ho hg).symm
  · rintro rfl
    exact portRegAt_offset g

end Sys2Proof.Machine
end

section
/-! What the port makes of each register (10_state.md R22 to R45): the bits a register implements, what a write stores
of them and what a read then shows. -/

namespace Sys2Proof.Machine

/-! ## Bit fields -/

/-- The lowest `n` bits of a word, and no others. -/
def lowBits (n : Nat) : Word := (BitVec.allOnes n).setWidth 32

/-- A field from bit `k` on is the word's quotient by `2 ^ k`. -/
theorem extractLsb'_eq_ofNat (v : Word) (k n : Nat) : v.extractLsb' k n = BitVec.ofNat n (v.toNat / 2 ^ k) := by
  rw [BitVec.extractLsb', Nat.shiftRight_eq_div_pow]

/-- One bit of a word is its quotient's parity. -/
theorem getLsbD_eq_decide (v : Word) (k : Nat) : v.getLsbD k = decide (v.toNat / 2 ^ k % 2 = 1) :=
  Nat.testBit_eq_decide_div_mod_eq

/-- A field that starts at bit 0, zero-extended, is the word under the field's mask. -/
theorem setWidth_extractLsb' (v : Word) (n : Nat) : (v.extractLsb' 0 n).setWidth 32 = v &&& lowBits n := by
  apply BitVec.eq_of_getLsbD_eq
  intro i hi
  simp [lowBits, hi, Bool.and_comm]

/-- A zero-extended field has no bit outside its mask. -/
theorem setWidth_and_not_lowBits {n : Nat} (u : BitVec n) : u.setWidth 32 &&& ~~~lowBits n = 0 := by
  apply BitVec.eq_of_getLsbD_eq
  intro i hi
  have := u.getLsbD_of_ge i
  by_cases hn : i < n <;> simp_all [lowBits]

/-- A mask that covers a field does not change it. -/
theorem extractLsb'_and_lowBits (v : Word) {k n m : Nat} (h : k + n ≤ m) (hm : m ≤ 32) :
    (v &&& lowBits m).extractLsb' k n = v.extractLsb' k n := by
  apply BitVec.eq_of_getLsbD_eq
  intro i hi
  have hbit : k + i < m := by omega
  have hword : k + i < 32 := by omega
  simp [lowBits, hi, hbit, hword]

theorem getLsbD_and_lowBits (v : Word) {k m : Nat} (h : k < m) (hm : m ≤ 32) :
    (v &&& lowBits m).getLsbD k = v.getLsbD k := by
  have hword : k < 32 := by omega
  simp [lowBits, h, hword]

/-- A bit above the lower part of a word adds to it. -/
theorem or_shiftLeft_toNat {a b : Word} {n : Nat} (ha : a.toNat < 2 ^ n) (hb : b.toNat * 2 ^ n < 2 ^ 32) :
    (a ||| b <<< n).toNat = a.toNat + b.toNat * 2 ^ n := by
  rw [BitVec.toNat_or, BitVec.toNat_shiftLeft, Nat.shiftLeft_eq, Nat.mod_eq_of_lt hb, ← Nat.shiftLeft_eq, Nat.or_comm,
    ← Nat.shiftLeft_add_eq_or_of_lt ha, Nat.shiftLeft_eq, Nat.add_comm]

theorem append_toNat {m n : Nat} (a : BitVec m) (b : BitVec n) : (a ++ b).toNat = b.toNat + a.toNat * 2 ^ n := by
  rw [BitVec.toNat_append, ← Nat.shiftLeft_add_eq_or_of_lt b.isLt, Nat.shiftLeft_eq, Nat.add_comm]

/-! ## The bits a register implements -/

/-- The bits a register implements (10_state.md R22 to R41): none of CMD (R25) and of a reserved offset (R44). -/
def PortReg.bits : PortReg → Word
  | .id | .errCmd | .result | .planeBytes | .srcBase | .srcPitch | .dst0Base | .dst1Base | .scratchBase => lowBits 32
  | .ctrl => lowBits 5
  | .status => 0xF1F
  | .cmd | .reserved => lowBits 0
  | .dstPitch => lowBits 17
  | .planes => lowBits 2
  | .srcWidth | .srcHeight | .thr3 | .thr4 => lowBits 16
  | .srcBpp => lowBits 6
  | .thrGrey => lowBits 8
  | .margin | .colorRed | .colorYel | .pal _ => lowBits 24

/-- The registers a host write stores in (10_state.md R23, R31 to R41). -/
def PortReg.Stores : PortReg → Prop
  | .ctrl | .srcBase | .srcWidth | .srcHeight | .srcBpp | .srcPitch | .dst0Base | .dst1Base | .scratchBase | .thrGrey
  | .thr3 | .thr4 | .margin | .colorRed | .colorYel | .pal _ => True
  | .id | .status | .cmd | .errCmd | .result | .dstPitch | .planeBytes | .planes | .reserved => False

theorem and_lowBits_32 (v : Word) : v &&& lowBits 32 = v := by rw [← setWidth_extractLsb']; simp

/-- A register reads 0 in every bit it does not implement (10_state.md R44). -/
theorem readPort_and_not_bits (s : State) (g : PortReg) : readPort s g &&& ~~~g.bits = 0 := by
  have whole : ∀ v : Word, v &&& ~~~lowBits 32 = 0 := fun v => by
    simpa using setWidth_and_not_lowBits v
  have ctrl : ∀ (m : BitVec 3) (a b : Bool),
      (m.setWidth 32 ||| bitWord a <<< 3 ||| bitWord b <<< 4) &&& ~~~lowBits 5 = 0 := by decide
  have flag : ∀ b : Bool, ∀ k < 5, (bitWord b <<< k) &&& ~~~(0xF1F : Word) = 0 := by decide
  have code : ∀ c : BitVec 4, (c.setWidth 32 <<< 8) &&& ~~~(0xF1F : Word) = 0 := by decide
  cases g with
  | id | errCmd | result | planeBytes | srcBase | srcPitch | dst0Base | dst1Base | scratchBase => exact whole _
  | ctrl => exact ctrl ..
  | status =>
    simp only [readPort, Status.toWord, BitVec.and_or_distrib_right]
    rw [PortReg.bits, code, flag _ 1 (by decide), flag _ 2 (by decide), flag _ 3 (by decide), flag _ 4 (by decide)]
    simpa using flag s.status.busy 0 (by decide)
  | cmd | reserved => exact BitVec.zero_and
  | _ => exact setWidth_and_not_lowBits _

/-- A write to a register that stores is read back in the bits the register implements. -/
theorem readPort_writeReg_same {s : State} {g : PortReg} (hg : g.Stores) (v : Word) :
    readPort { s with regs := writeReg s.regs v g } g = v &&& g.bits := by
  cases g with
  | srcBase | srcPitch | dst0Base | dst1Base | scratchBase => exact (and_lowBits_32 v).symm
  | ctrl =>
    have fields : ∀ u : BitVec 5, (u.extractLsb' 0 3).setWidth 32 ||| bitWord (u.getLsbD 3) <<< 3
        ||| bitWord (u.getLsbD 4) <<< 4 = u.setWidth 32 := by decide
    have := fields (v.extractLsb' 0 5)
    rw [setWidth_extractLsb'] at this
    refine Eq.trans ?_ this
    simp [readPort, writeReg]
  | thr3 | thr4 =>
    have fields : v.extractLsb' 8 8 ++ v.extractLsb' 0 8 = v.extractLsb' 0 16 :=
      BitVec.extractLsb'_append_extractLsb'_eq_extractLsb' rfl
    exact (congrArg _ fields).trans (setWidth_extractLsb' v 16)
  | margin =>
    have upper : v.extractLsb' 16 8 ++ v.extractLsb' 8 8 = v.extractLsb' 8 16 :=
      BitVec.extractLsb'_append_extractLsb'_eq_extractLsb' rfl
    have fields : v.extractLsb' 8 16 ++ v.extractLsb' 0 8 = v.extractLsb' 0 24 :=
      BitVec.extractLsb'_append_extractLsb'_eq_extractLsb' rfl
    simp only [readPort, writeReg, upper]
    exact (congrArg _ fields).trans (setWidth_extractLsb' v 24)
  | srcWidth | srcHeight | srcBpp | thrGrey | colorRed | colorYel => exact setWidth_extractLsb' v _
  | pal i =>
    rw [PortReg.bits, ← setWidth_extractLsb', readPort]
    simp [writeReg]
  | _ => exact hg.elim

/-- A write to one register leaves what every other register reads. -/
theorem readPort_writeReg_ne (s : State) {g h : PortReg} (hne : h ≠ g) (v : Word) :
    readPort { s with regs := writeReg s.regs v g } h = readPort s h := by
  cases g with
  | pal i =>
    cases h with
    | pal j =>
      have hij : i.val ≠ j.val := fun h => hne (congrArg PortReg.pal (Fin.ext h.symm))
      simp [readPort, writeReg, Vector.getElem_set_ne _ _ hij]
    | _ => rfl
  | _ => cases h <;> simp [readPort, writeReg] at hne ⊢

/-- A write stores nothing of the bits a register does not implement (10_state.md R44). -/
theorem writeReg_and_bits (r : Regs) (v : Word) (g : PortReg) : writeReg r (v &&& g.bits) g = writeReg r v g := by
  cases g with
  | ctrl =>
    simp only [writeReg, PortReg.bits, extractLsb'_and_lowBits, getLsbD_and_lowBits, Nat.reduceAdd, Nat.reduceLeDiff,
      Nat.reduceLT]
  | _ => simp [writeReg, PortReg.bits, extractLsb'_and_lowBits, and_lowBits_32]

end Sys2Proof.Machine
end

section
/-! The host's accesses to the port while reset is low (10_state.md R20 to R47): what a write and a read of a register
do by the register's place, and the tables of the statements as lists of registers. -/

namespace Sys2Proof.Machine

/-! ## An access by the register's place -/

section access

variable {s : State} (hr : s.inReset = false) (g : PortReg)

include hr

theorem hostRegRead_offset : hostRegRead g.offset .word s = .next { s with readData := readPort s g } := by
  rw [hostRegRead_word g.offset_aligned hr, portRegAt_offset]

theorem hostRegWrite_offset (v : Word) : hostRegWrite g.offset .word v s = .next (writePort g v s) := by
  rw [hostRegWrite_word g.offset_aligned hr, portRegAt_offset]

end access

/-- An idle engine's port stores a write to any register but STATUS and CMD (10_state.md R23, R31 to R41). -/
theorem writePort_idle {s : State} (hb : s.status.busy = false) {g : PortReg} (hstatus : g ≠ .status)
    (hcmd : g ≠ .cmd) (v : Word) : writePort g v s = { s with regs := writeReg s.regs v g } := by
  cases g with
  | status => exact absurd rfl hstatus
  | cmd => exact absurd rfl hcmd
  | _ => exact if_neg (by simp [hb])

/-- A busy engine's port drops a write to any register but STATUS (10_state.md R45). -/
theorem writePort_of_busy {s : State} (hb : s.status.busy = true) {g : PortReg} (hstatus : g ≠ .status) (v : Word) :
    writePort g v s = setOverrun s := by
  cases g with
  | status => exact absurd rfl hstatus
  | _ => simp [writePort, hb]

/-- A register but STATUS reads the same whatever STATUS holds. -/
theorem readPort_status_irrelevant (s : State) (t : Status) {g : PortReg} (hg : g ≠ .status) :
    readPort { s with status := t } g = readPort s g := by
  cases g with
  | status => exact absurd rfl hg
  | _ => rfl

theorem PortReg.Stores.ne_status {g : PortReg} (h : g.Stores) : g ≠ .status := by rintro rfl; exact h

theorem PortReg.Stores.ne_cmd {g : PortReg} (h : g.Stores) : g ≠ .cmd := by rintro rfl; exact h

theorem PortReg.Stores.ne_reserved {g : PortReg} (h : g.Stores) : g ≠ .reserved := by rintro rfl; exact h

/-- While the engine is idle a host write to a register that stores changes the registers alone, by `writeReg`. -/
theorem hostRegWrite_stores {s : State} (hr : s.inReset = false) (hb : s.status.busy = false) {g : PortReg}
    (hg : g.Stores) (v : Word) :
    hostRegWrite g.offset .word v s = .next { s with regs := writeReg s.regs v g } := by
  rw [hostRegWrite_offset hr, writePort_idle hb hg.ne_status hg.ne_cmd]

/-- A read-only register and a reserved offset take no write (10_state.md R44). -/
theorem writeReg_of_not_stores (r : Regs) (v : Word) {g : PortReg} (h : ¬g.Stores) : writeReg r v g = r := by
  cases g with
  | id | status | cmd | errCmd | result | dstPitch | planeBytes | planes | reserved => rfl
  | _ => exact absurd trivial h

/-- The acknowledgement looks at bits 1 to 4 alone (10_state.md R24, R44). -/
theorem acknowledge_and (v : Word) (s : State) : acknowledge (v &&& 0x1E) s = acknowledge v s := by
  simp [acknowledge]

/-! ## The tables as lists of registers -/

/-- The registers of the port but the palette (10_state.md R20). -/
def readRegisters : List PortReg :=
  [.id, .ctrl, .status, .cmd, .errCmd, .result, .dstPitch, .planeBytes, .planes, .srcBase, .srcWidth, .srcHeight,
    .srcBpp, .srcPitch, .dst0Base, .dst1Base, .scratchBase, .thrGrey, .thr3, .thr4, .margin, .colorRed, .colorYel]

/-- A register's row in the tables of the port: its place and the bits it implements. -/
def PortReg.row (g : PortReg) : BitVec 11 × Word := (g.offset, g.bits)

/-- The RW registers but STATUS, CMD and the palette (10_state.md R20). -/
def plainRegisters : List PortReg :=
  [.ctrl, .srcBase, .srcWidth, .srcHeight, .srcBpp, .srcPitch, .dst0Base, .dst1Base, .scratchBase, .thrGrey, .thr3,
    .thr4, .margin, .colorRed, .colorYel]

/-- The read-only registers, STATUS and CMD (10_state.md R20). -/
def fixedRegisters : List PortReg :=
  [.id, .status, .cmd, .errCmd, .result, .dstPitch, .planeBytes, .planes]

/-- The registers a write stores in are the plain ones and the palette's entries. -/
theorem mem_plainRegisters_or_pal {g : PortReg} :
    g ∈ plainRegisters ++ (List.finRange 256).map PortReg.pal ↔ g.Stores := by
  cases g <;> simp [plainRegisters, PortReg.Stores]

/-- The table of the RW registers is made of the rows of the registers a write stores in. -/
theorem rwRegisters_eq : rwRegisters = (plainRegisters ++ (List.finRange 256).map PortReg.pal).map PortReg.row := by
  have palette : (List.range 256).map (fun i => (BitVec.ofNat 11 (0x400 + 4 * i), (0xFFFFFF : Word))) =
      ((List.finRange 256).map PortReg.pal).map PortReg.row := by
    rw [List.map_map, ← List.map_coe_finRange_eq_range, List.map_map]
    rfl
  rw [List.map_append, rwRegisters, palette]
  rfl

theorem otherRegisters_eq : otherRegisters = fixedRegisters.map PortReg.row := rfl

theorem mem_rwRegisters {e : BitVec 11 × Word} : e ∈ rwRegisters ↔ ∃ g : PortReg, g.Stores ∧ g.row = e := by
  simp only [rwRegisters_eq, List.mem_map (f := PortReg.row), mem_plainRegisters_or_pal]

/-- The rows of the two tables are those of the registers that are not reserved. -/
theorem mem_registers {e : BitVec 11 × Word} :
    e ∈ rwRegisters ++ otherRegisters ↔ ∃ g : PortReg, g ≠ .reserved ∧ g.row = e := by
  have split : ∀ g : PortReg, g ≠ .reserved ↔ g.Stores ∨ g ∈ fixedRegisters := by
    intro g
    cases g <;> simp [PortReg.Stores, fixedRegisters]
  simp only [List.mem_append, mem_rwRegisters, otherRegisters_eq, List.mem_map, split, or_and_right, exists_or]

theorem registerWrites_eq (r : Regs) (v : Word) :
    registerWrites r v = plainRegisters.map fun g => (g.offset, writeReg r v g) := by
  simp only [registerWrites, plainRegisters, List.map, PortReg.offset, writeReg, extractLsb'_eq_ofNat,
    getLsbD_eq_decide, Nat.pow_zero, Nat.div_one]

/-- CTRL as a number: MODE, TOPDOWN and IRQ_EN at their bits (10_state.md R23). -/
theorem ctrl_toNat (s : State) :
    (readPort s .ctrl).toNat = s.regs.mode.toNat + s.regs.topdown.toNat * 2 ^ 3 + s.regs.irqEn.toNat * 2 ^ 4 := by
  have field : ∀ (m : BitVec 3) (a b : Bool),
      (m.setWidth 32 ||| bitWord a <<< 3 ||| bitWord b <<< 4).toNat = m.toNat + a.toNat * 2 ^ 3 + b.toNat * 2 ^ 4 := by
    decide
  exact field ..

/-- STATUS as a number: its flags and ERR_CODE at their bits (10_state.md R24). -/
theorem status_toNat (t : Status) :
    t.toWord.toNat =
      t.busy.toNat + t.done.toNat * 2 ^ 1 + t.err.toNat * 2 ^ 2 + t.overrun.toNat * 2 ^ 3 + t.geomSkip.toNat * 2 ^ 4
        + t.errCode.toNat * 2 ^ 8 := by
  have flags : ∀ a b c d e : Bool,
      (bitWord a ||| bitWord b <<< 1 ||| bitWord c <<< 2 ||| bitWord d <<< 3 ||| bitWord e <<< 4).toNat =
        a.toNat + b.toNat * 2 ^ 1 + c.toNat * 2 ^ 2 + d.toNat * 2 ^ 3 + e.toNat * 2 ^ 4 := by decide
  have low : ∀ a b c d e : Bool,
      a.toNat + b.toNat * 2 ^ 1 + c.toNat * 2 ^ 2 + d.toNat * 2 ^ 3 + e.toNat * 2 ^ 4 < 2 ^ 8 := by decide
  have code : (t.errCode.setWidth 32).toNat = t.errCode.toNat := BitVec.toNat_setWidth_of_le (by decide)
  have hcode := t.errCode.isLt
  rw [Status.toWord, or_shiftLeft_toNat, flags, code]
  · rw [flags]; exact low ..
  · rw [code]; omega

/-- A zero-extended field is the field's number. -/
theorem setWidth_toNat {n : Nat} (u : BitVec n) (hn : n ≤ 32) : (u.setWidth 32).toNat = u.toNat :=
  BitVec.toNat_setWidth_of_le hn

/-- The rows of the reads are what the port answers at each register's place, as a number. -/
theorem registerReads_eq (s : State) :
    registerReads s = readRegisters.map fun g => (g.offset, (readPort s g).toNat) := by
  have pair : ∀ a b : Byte, (a ++ b : BitVec 16).toNat = b.toNat + a.toNat * 2 ^ 8 := append_toNat
  have triple : ∀ a b c : Byte,
      ((a ++ b : BitVec 16) ++ c : BitVec 24).toNat = c.toNat + b.toNat * 2 ^ 8 + a.toNat * 2 ^ 16 := by
    intro a b c
    have := append_toNat (a ++ b : BitVec 16) c
    rw [pair] at this
    omega
  simp only [registerReads, readRegisters, List.map, PortReg.offset, ctrl_toNat]
  simp only [readPort, status_toNat, setWidth_toNat, pair, triple, Nat.reduceLeDiff]
  rfl

/-! ## The host's accesses -/

/-- At a reserved offset no row of the tables stands (10_state.md R44). -/
theorem portRegAt_eq_reserved {o : BitVec 11} (ho : o.toNat % 4 = 0)
    (h : ∀ e ∈ rwRegisters ++ otherRegisters, e.1 ≠ o) : portRegAt o = .reserved := by
  by_contra hne
  exact h _ (mem_registers.2 ⟨_, hne, rfl⟩) (offset_portRegAt ho hne)

end Sys2Proof.Machine

namespace Sys2Proof.Proofs

open Sys2Proof.Machine

/-- Settles O10: the port of a busy engine drops a write to any register but STATUS, and its answer to a read of any
register but STATUS does not look at BUSY. -/
theorem writesWhileBusyAreIgnored : Obligations.WritesWhileBusyAreIgnored := by
  intro s o hr hb ho
  have ne_status : o ≠ 0x008 → portRegAt o ≠ .status := fun hne h =>
    hne ((portRegAt_eq_iff (g := .status) ho nofun).1 h)
  refine ⟨fun v hne => ?write, readPort s (portRegAt o), hostRegRead_word ho hr, fun hne => ?read⟩
  case write =>
    rw [step_queue, hostStep, hostRegWrite_word ho hr, writePort_of_busy hb (ne_status hne)]
    rfl
  case read =>
    have idle := hostRegRead_word (s := { s with status := { s.status with busy := false } }) ho hr
    rw [readPort_status_irrelevant s _ (ne_status hne)] at idle
    exact idle

/-- Settles O11: the acknowledgement clears a flag exactly where its bit of the word is 1. -/
theorem statusWriteAcknowledges : Obligations.StatusWriteAcknowledges := by
  intro s v hr
  have clear : ∀ (b : Bool) (k : Nat), (b && !v.getLsbD k) = if v.toNat / 2 ^ k % 2 = 1 then false else b := by
    intro b k
    rw [getLsbD_eq_decide]
    split <;> simp_all
  have code : ∀ c : BitVec 4, (if v.getLsbD 2 then 0 else c) = if v.toNat / 2 ^ 2 % 2 = 1 then 0 else c := by
    intro c
    simp only [getLsbD_eq_decide, decide_eq_true_eq]
  rw [step_queue, hostStep, hostRegWrite_status hr, acknowledge]
  simp only [clear, code]
  rfl

/-- Settles O12: an offset in no table is reserved; a register of the tables reads 0 outside its bits, and a write
stores its bits alone, or nothing where the register is read-only. -/
theorem reservedOffsetsAndBits : Obligations.ReservedOffsetsAndBits := by
  intro s hr
  refine ⟨fun o ho hnone => ⟨?reservedRead, fun v hb => ?reservedWrite⟩, fun e he => ?bits, fun e he v => ?stores,
    fun v => ?status, fun o ho v hb => ?readOnly⟩
  case reservedRead =>
    rw [step_queue, hostStep, hostRegRead_word ho hr, portRegAt_eq_reserved ho hnone]
    rfl
  case reservedWrite =>
    rw [step_queue, hostStep, hostRegWrite_word ho hr, portRegAt_eq_reserved ho hnone,
      writePort_idle (g := .reserved) hb nofun nofun]
    rfl
  case bits =>
    obtain ⟨g, -, rfl⟩ := mem_registers.1 he
    exact ⟨_, hostRegRead_offset hr g, readPort_and_not_bits s g⟩
  case stores =>
    obtain ⟨g, hg, rfl⟩ := mem_rwRegisters.1 he
    rw [step_queue, step_queue, hostStep, hostStep, PortReg.row, hostRegWrite_offset hr, hostRegWrite_offset hr]
    cases hb : s.status.busy with
    | true => rw [writePort_of_busy hb hg.ne_status, writePort_of_busy hb hg.ne_status]
    | false =>
      rw [writePort_idle hb hg.ne_status hg.ne_cmd, writePort_idle hb hg.ne_status hg.ne_cmd, writeReg_and_bits]
  case status =>
    rw [step_queue, step_queue, hostStep, hostStep, hostRegWrite_status hr, hostRegWrite_status hr, acknowledge_and]
  case readOnly =>
    have place : ∃ g : PortReg, ¬g.Stores ∧ g ≠ .status ∧ g ≠ .cmd ∧ g.offset = o := by
      simp only [List.mem_cons, List.not_mem_nil, or_false] at ho
      obtain rfl | rfl | rfl | rfl | rfl | rfl := ho
      exacts [⟨.id, id, nofun, nofun, rfl⟩, ⟨.errCmd, id, nofun, nofun, rfl⟩, ⟨.result, id, nofun, nofun, rfl⟩,
        ⟨.dstPitch, id, nofun, nofun, rfl⟩, ⟨.planeBytes, id, nofun, nofun, rfl⟩, ⟨.planes, id, nofun, nofun, rfl⟩]
    obtain ⟨g, hg, hstatus, hcmd, rfl⟩ := place
    rw [step_queue, hostStep, hostRegWrite_offset hr, writePort_idle hb hstatus hcmd, writeReg_of_not_stores _ _ hg]

/-- Settles O13: the write stores in one register, which reads its bits of the word back, and every other aligned offset
is another register's or reserved. -/
theorem registerWriteIsReadBack : Obligations.RegisterWriteIsReadBack := by
  intro s hr hb e he v
  obtain ⟨g, hg, rfl⟩ := mem_rwRegisters.1 he
  refine ⟨_, hostRegWrite_stores hr hb hg v, rfl, ?same,
    fun o ho hne => ⟨readPort s (portRegAt o), hostRegRead_word ho hr, ?other⟩⟩
  case same =>
    rw [step_queue, hostStep, PortReg.row, hostRegRead_offset (s := { s with regs := writeReg s.regs v g }) hr,
      readPort_writeReg_same hg]
  case other =>
    have elsewhere : portRegAt o ≠ g := fun h => hne ((portRegAt_eq_iff ho hg.ne_reserved).1 h)
    rw [step_queue, hostStep, hostRegRead_word (s := { s with regs := writeReg s.regs v g }) ho hr,
      readPort_writeReg_ne s elsewhere]

/-- Settles O14: the registers and STATUS of `State.reset` are at their reset values. -/
theorem resetRegisterValues : Obligations.ResetRegisterValues :=
  ⟨fun _ he => hostRegRead_resetValue (s := State.reset) (pal := Regs.reset.pal) rfl rfl rfl he, rfl⟩

/-- Settles O53: the port of an idle engine stores a write in the register at its offset, field by field as the table
has it. -/
theorem registerWriteSetsItsFields : Obligations.RegisterWriteSetsItsFields := by
  intro s v hr hb
  constructor
  · intro e he
    rw [registerWrites_eq] at he
    obtain ⟨g, hg, rfl⟩ := List.mem_map.1 he
    exact hostRegWrite_stores hr hb (mem_plainRegisters_or_pal.1 (List.mem_append_left _ hg)) v
  · intro i
    have entry : v.extractLsb' 0 24 = BitVec.ofNat 24 v.toNat := by
      rw [extractLsb'_eq_ofNat, Nat.pow_zero, Nat.div_one]
    rw [← entry]
    exact hostRegWrite_stores hr hb (g := .pal i) trivial v

/-- Settles O54: the port answers a read with the register at its offset, whose number is that of its fields. -/
theorem registerReadsShowTheirFields : Obligations.RegisterReadsShowTheirFields := by
  intro s hr
  constructor
  · intro e he
    rw [registerReads_eq] at he
    obtain ⟨g, -, rfl⟩ := List.mem_map.1 he
    exact ⟨_, hostRegRead_offset hr g, rfl⟩
  · intro i
    exact ⟨_, hostRegRead_offset hr (.pal i), setWidth_toNat _ (by decide)⟩

end Sys2Proof.Proofs
end

section
/-! What a command leaves in the registers and in STATUS (10_state.md R46): the completion of each command that passed
its checks, and the registers no command of a kind writes. -/

namespace Sys2Proof.Machine

/-! ## Completion, command by command -/

/-- A colour's word is the number `registersAfter` spells (10_state.md R30). -/
theorem Rgb.toWord_eq (c : Rgb) :
    c.toWord = BitVec.ofNat 32 (c.r.toNat * 2 ^ 16 + c.g.toNat * 2 ^ 8 + c.b.toNat) := by
  rw [← Rgb.toWord_toNat, BitVec.ofNat_toNat, BitVec.setWidth_eq]

theorem registersAfter_match {s : State} {m : Mode} (hm : modeOf s.regs.mode = some m) (r g b : Nat) :
    registersAfter s (.matchColour r g b) =
      { s.regs with result := matchResult m s.regs (operandColour r g b) } := by
  rw [matchResult_eq]
  simp only [registersAfter, hm]
  rfl

theorem registersAfter_pack {s : State} {m : Mode} (hm : modeOf s.regs.mode = some m) :
    registersAfter s .pack = publishedRegs s.regs (planeShape m).1 (planeShape m).2 := by
  have shapes : ∀ v : BitVec 3, (modeOf v).all fun m =>
      planeShape m = if v = 0 then (1, 1) else if v = 3 then (1, 2) else (2, 1) := by decide
  have shape := shapes s.regs.mode
  rw [hm, Option.all_some, decide_eq_true_eq] at shape
  rw [shape, registersAfter]
  split
  · rfl
  · split <;> rfl

/-- A published plane's metadata, with the pitch as the packer computes it (44_packer.md R221). -/
theorem completedWith_published (body : Config.Params → Regs → Work → Work) (np bps : Nat) (s : State) :
    CompletedWith s (complete (publishPlanes (destPitch s.regs.width bps) np (s.runWork body)))
      (publishedRegs s.regs np bps) false := completedWith_publishPlanes body (destPitch s.regs.width bps) np s

theorem mirrorSkips_eq_skipsWork (r : Regs) : mirrorSkips r = skipsWork r .mirror := by
  have depth : r.srcBpp.toNat = 1 ↔ r.srcBpp = 1 := BitVec.toNat_inj (y := 1)
  simp only [mirrorSkips_eq, depth, skipsWork]

/-- A rotation by 90 or 270 degrees exchanges the source registers at 4 bpp, and is skipped at any other depth
(45_geometry.md R258, R260). -/
theorem completedWith_rotation (body : Config.Params → Regs → Work → Work) (s : State) :
    CompletedWith s (complete (if is4bpp s.regs then exchangeSource (s.runWork body) else setGeomSkip s))
      (registersAfter s .rot90) (skipsWork s.regs .rot90) := by
  simp only [is4bpp_iff, registersAfter, skipsWork]
  by_cases h : s.regs.srcBpp = 4
  · simpa only [h, if_true, ne_eq, not_true, decide_false] using completedWith_exchangeSource s body
  · simpa only [h, if_false, ne_eq, not_false_eq_true, decide_true] using completedWith_setGeomSkip s

/-- A command that passed its checks completes with the registers of `registersAfter`, and GEOM_SKIP where it skips
work (10_state.md R46). -/
theorem completedWith_effectOf {i : Instr} {s : State} (hv : validate s.params s.regs i = none) :
    CompletedWith s (complete (effectOf i s)) (registersAfter s i) (skipsWork s.regs i) := by
  obtain ⟨-, hcfg, -, -, -, -⟩ := validate_eq_none.1 hv
  cases i with
  | nop => simp [CompletedWith, complete, effectOf, registersAfter, skipsWork]
  | sample x y =>
    simp only [registersAfter, ← Rgb.toWord_eq]
    exact completedWith_setResult _ s
  | matchColour r g b =>
    obtain ⟨m, hm⟩ : ∃ m, modeOf s.regs.mode = some m := by
      simpa [configUnsupported, Option.isSome_iff_exists] using hcfg
    rw [registersAfter_match hm]
    simp only [effectOf, matchEffect, hm]
    exact completedWith_setResult _ s
  | dgrey => exact completedWith_published dgreyWork 1 1 s
  | copy1 => exact completedWith_published copyWork 1 1 s
  | pack =>
    obtain ⟨m, hm⟩ : ∃ m, modeOf s.regs.mode = some m := by
      simpa [configUnsupported, Option.isSome_iff_exists] using hcfg
    rw [registersAfter_pack hm]
    simp only [effectOf, packEffect, hm]
    exact completedWith_published (packWork m) _ _ s
  | dcolor =>
    obtain ⟨m, hm⟩ := dcolor_mode hcfg
    rw [effectOf, dcolorEffect_of_mode hm]
    exact completedWith_runWork s _
  | vflip => exact completedWith_runWork s vflipWork
  | invert => exact completedWith_runWork s invertWork
  | mirror =>
    rw [← mirrorSkips_eq_skipsWork]
    exact completedWith_mirrorEffect s
  | rot180 =>
    have := completedWith_rot180Effect s
    rwa [mirrorSkips_eq_skipsWork] at this
  | rot90 => exact completedWith_rotation rot90Work s
  | rot270 => exact completedWith_rotation rot270Work s

/-! ## The registers a command does not write -/

section kept

variable (s : State) (i : Instr)

/-- What a command that failed no check writes of the registers: nothing; RESULT, by SAMPLE and MATCH (10_state.md R30);
the planes' metadata, by PACK, DGREY and COPY1 (R27 to R29); or the source registers, by a 4-bpp rotation by 90 or 270
degrees (45_geometry.md R258). -/
theorem registersAfter_cases :
    registersAfter s i = s.regs ∨
      (((∃ x y, i = .sample x y) ∨ ∃ r g b, i = .matchColour r g b) ∧
        ∃ v, registersAfter s i = { s.regs with result := v }) ∨
      ((i = .pack ∨ i = .dgrey ∨ i = .copy1) ∧
        ∃ np bps, np ≤ 2 ∧ registersAfter s i = publishedRegs s.regs np bps) ∨
      ((i = .rot90 ∨ i = .rot270) ∧ s.regs.srcBpp = 4 ∧ registersAfter s i = rotatedRegs s.regs) := by
  have rotation : (if s.regs.srcBpp = 4 then rotatedRegs s.regs else s.regs) = s.regs ∨
      s.regs.srcBpp = 4 ∧ (if s.regs.srcBpp = 4 then rotatedRegs s.regs else s.regs) = rotatedRegs s.regs := by
    split
    · exact .inr ⟨‹_›, rfl⟩
    · exact .inl rfl
  cases i with
  | sample x y => exact .inr (.inl ⟨.inl ⟨x, y, rfl⟩, _, rfl⟩)
  | matchColour r g b =>
    cases hm : modeOf s.regs.mode with
    | some m => exact .inr (.inl ⟨.inr ⟨r, g, b, rfl⟩, _, registersAfter_match hm r g b⟩)
    | none => exact .inl (by simp only [registersAfter, hm])
  | pack =>
    refine .inr (.inr (.inl ⟨.inl rfl, ?_⟩))
    simp only [registersAfter]
    split
    · exact ⟨1, 1, by decide, rfl⟩
    · split
      · exact ⟨1, 2, by decide, rfl⟩
      · exact ⟨2, 1, by decide, rfl⟩
  | dgrey => exact .inr (.inr (.inl ⟨.inr (.inl rfl), 1, 1, by decide, rfl⟩))
  | copy1 => exact .inr (.inr (.inl ⟨.inr (.inr rfl), 1, 1, by decide, rfl⟩))
  | rot90 => exact rotation.imp_right fun h => .inr (.inr ⟨.inl rfl, h⟩)
  | rot270 => exact rotation.imp_right fun h => .inr (.inr ⟨.inr rfl, h⟩)
  | nop | dcolor | vflip | mirror | rot180 | invert => exact .inl rfl

/-- A command that failed no check writes RESULT, the planes' metadata and the source registers at most. -/
theorem registersAfter_frame :
    registersAfter s i =
      { s.regs with
        result := (registersAfter s i).result, dstPitch := (registersAfter s i).dstPitch,
        planeBytes := (registersAfter s i).planeBytes, planes := (registersAfter s i).planes,
        srcBase := (registersAfter s i).srcBase, scratchBase := (registersAfter s i).scratchBase,
        srcWidth := (registersAfter s i).srcWidth, srcHeight := (registersAfter s i).srcHeight,
        srcPitch := (registersAfter s i).srcPitch } := by
  obtain h | ⟨-, v, h⟩ | ⟨-, np, bps, -, h⟩ | ⟨-, -, h⟩ := registersAfter_cases s i <;> rw [h] <;> rfl

variable {i}

/-- RESULT is SAMPLE's and MATCH's (10_state.md R30). -/
theorem registersAfter_result (hsample : ∀ x y, i ≠ .sample x y) (hmatch : ∀ r g b, i ≠ .matchColour r g b) :
    (registersAfter s i).result = s.regs.result := by
  obtain h | ⟨⟨x, y, rfl⟩ | ⟨r, g, b, rfl⟩, -⟩ | ⟨-, np, bps, -, h⟩ | ⟨-, -, h⟩ := registersAfter_cases s i
  · rw [h]
  · exact absurd rfl (hsample x y)
  · exact absurd rfl (hmatch r g b)
  · rw [h]; rfl
  · rw [h]; rfl

/-- The planes' metadata is PACK's, DGREY's and COPY1's (10_state.md R27 to R29). -/
theorem registersAfter_metadata (hpack : i ≠ .pack) (hdgrey : i ≠ .dgrey) (hcopy : i ≠ .copy1) :
    (registersAfter s i).dstPitch = s.regs.dstPitch ∧ (registersAfter s i).planeBytes = s.regs.planeBytes ∧
      (registersAfter s i).planes = s.regs.planes := by
  obtain h | ⟨-, v, h⟩ | ⟨rfl | rfl | rfl, -⟩ | ⟨-, -, h⟩ := registersAfter_cases s i
  · rw [h]; exact ⟨rfl, rfl, rfl⟩
  · rw [h]; exact ⟨rfl, rfl, rfl⟩
  · exact absurd rfl hpack
  · exact absurd rfl hdgrey
  · exact absurd rfl hcopy
  · rw [h]; exact ⟨rfl, rfl, rfl⟩

/-- The source registers are those of a 4-bpp rotation by 90 or 270 degrees (45_geometry.md R258). -/
theorem registersAfter_source (hother : (i ≠ .rot90 ∧ i ≠ .rot270) ∨ s.regs.srcBpp ≠ 4) :
    (registersAfter s i).srcBase = s.regs.srcBase ∧ (registersAfter s i).scratchBase = s.regs.scratchBase ∧
      (registersAfter s i).srcWidth = s.regs.srcWidth ∧ (registersAfter s i).srcHeight = s.regs.srcHeight ∧
      (registersAfter s i).srcPitch = s.regs.srcPitch := by
  obtain h | ⟨-, v, h⟩ | ⟨-, np, bps, -, h⟩ | ⟨hrot, hdepth, -⟩ := registersAfter_cases s i
  · rw [h]; exact ⟨rfl, rfl, rfl, rfl, rfl⟩
  · rw [h]; exact ⟨rfl, rfl, rfl, rfl, rfl⟩
  · rw [h]; exact ⟨rfl, rfl, rfl, rfl, rfl⟩
  · obtain ⟨h90, h270⟩ | hne := hother
    · exact absurd hrot (not_or.2 ⟨h90, h270⟩)
    · exact absurd hdepth hne

/-- PLANES never exceeds 2 (10_state.md R29). -/
theorem registersAfter_planes (hplanes : s.regs.planes.toNat ≤ 2) : (registersAfter s i).planes.toNat ≤ 2 := by
  obtain h | ⟨-, v, h⟩ | ⟨-, np, bps, hnp, h⟩ | ⟨-, -, h⟩ := registersAfter_cases s i
  · rwa [h]
  · rwa [h]
  · rw [h, publishedRegs, BitVec.toNat_ofNat]; omega
  · rwa [h]

end kept

/-! ## The two ends of a command -/

/-- A command that failed a check ends by the error mechanism; one that failed none completes with the registers of
`registersAfter` (40_command.md R125 to R127). -/
theorem exec_cases {i : Instr} {s t : State} (h : exec i s = .next t) :
    (∃ e, (∃ n, CheckFails s i n) ∧ t = raiseError e s) ∨
      ((∀ n, ¬CheckFails s i n) ∧ CompletedWith s t (registersAfter s i) (skipsWork s.regs i)) := by
  obtain ⟨e, hv, rfl⟩ | ⟨hv, rfl⟩ := runCommand_cases ((exec_eq i s).symm.trans h)
  · exact .inl ⟨e, ⟨_, (checkFails_code_iff s i e).2 (validate_eq_some hv).1⟩, rfl⟩
  · exact .inr ⟨validate_eq_none_iff_noCheckFails.1 hv, completedWith_effectOf hv⟩

end Sys2Proof.Machine

namespace Sys2Proof.Proofs

open Sys2Proof.Machine

/-- Settles O22: a failed check ends the command with ERR_CMD alone written; a command that fails none leaves
`registersAfter`, which keeps each register that is not the command's. -/
theorem engineWritesOnlyItsRegisters : Obligations.EngineWritesOnlyItsRegisters := by
  intro i s t h
  obtain ⟨e, hfails, rfl⟩ | ⟨hpass, hdone⟩ := exec_cases h
  · exact ⟨⟨rfl, rfl⟩, fun hnone => absurd hfails (not_exists.2 hnone), fun _ => rfl, rfl, rfl, nofun, fun _ _ => rfl,
      fun _ _ => rfl, fun _ _ _ => ⟨rfl, rfl, rfl⟩, fun _ => ⟨rfl, rfl, rfl, rfl, rfl⟩⟩
  · have hstatus : t.status = _ := congrArg State.status hdone
    have hregs : t.regs = registersAfter s i := hdone.regs
    have frame := registersAfter_frame s i
    rw [hstatus, hregs]
    refine ⟨⟨rfl, rfl⟩, fun _ => hdone, fun hfails => absurd hfails (not_exists.2 hpass), ?frame, rfl, fun _ => ?errCmd,
      fun ht hs => absurd (ht.symm.trans hs) nofun, registersAfter_result s, registersAfter_metadata s,
      registersAfter_source s⟩
    case errCmd => rw [frame]
    case frame => rw [frame]

end Sys2Proof.Proofs
end

section
/-! The line buffers' length (10_state.md R42): a dithering pass leaves every channel with `MAX_W + 2` slots, and no
other command touches one. -/

namespace Sys2Proof.Machine

/-- Both line buffers of a channel have `n` slots. -/
def Channel.Sized (n : Nat) (ch : Channel) : Prop := ch.cur.length = n ∧ ch.nxt.length = n

theorem Channel.zero_sized (maxW : Nat) : (Channel.zero maxW).Sized (maxW + 2) := by simp [Sized, zero]

theorem linesAt_sized (n width : Nat) (e : Nat → Nat → Int) (y x : Nat) : (linesAt n width e y x).Sized n := by
  simp [Channel.Sized, linesAt, slots]

/-- A pass that starts on zero line buffers ends with as many slots. -/
theorem Pass.Dithers.sized {P : Pass} {p : Config.Params} {c : Chan} {residual : Nat → Nat → Work → Int} {w : Work}
    (h : P.Dithers p c residual) (hw : w.eng.chan c = Channel.zero p.maxW) (width height : Nat) :
    ((forRows height (P.row width) w).eng.chan c).Sized (p.maxW + 2) := by
  cases height with
  | zero =>
    change (w.eng.chan c).Sized _
    rw [hw]
    exact Channel.zero_sized p.maxW
  | succ y =>
    rw [Pass.forRows_succ, h.finish, h.lines_before width hw]
    exact linesAt_sized _ _ _ _ _

/-- A command that does not dither keeps the line buffers (10_state.md R42). -/
theorem linesKept_effectOf {i : Instr} (hi : usesLineBuffers i = false) (s : State) : LinesKept s (effectOf i s) := by
  have same : LinesKept s s := ⟨rfl, rfl, rfl⟩
  have rotation : ∀ body : Config.Params → Regs → Work → Work, KeepsLines (body s.params s.regs) →
      LinesKept s (if is4bpp s.regs then exchangeSource (s.runWork body) else setGeomSkip s) := by
    intro body hbody
    split
    · exact hbody.linesKept
    · exact same
  have flip : LinesKept s (s.runWork vflipWork) :=
    KeepsLines.linesKept (KeepsLines.flipRows s.regs.base s.regs.height s.regs.pitch)
  cases i with
  | dgrey | dcolor => cases hi
  | nop | sample => exact same
  | matchColour r g b => simp only [effectOf, matchEffect]; split <;> exact same
  | pack =>
    simp only [effectOf, packEffect]
    split
    · exact linesKept_of_chan fun c => packWork_chan c _ s.params s.regs s.work
    · exact same
  | copy1 => exact linesKept_of_chan fun c => copyWork_chan c s.params s.regs s.work
  | vflip => exact flip
  | mirror => exact linesKept_mirrorEffect s
  | rot180 => exact flip.trans (linesKept_mirrorEffect (s.runWork vflipWork))
  | rot90 => exact rotation rot90Work (KeepsLines.rot90Work s.params s.regs)
  | rot270 => exact rotation rot270Work (KeepsLines.rot270Work s.params s.regs)
  | invert => exact KeepsLines.linesKept (KeepsLines.invertWork s.params s.regs)

/-- No effect changes the length of a line buffer. -/
theorem effectOf_sized {i : Instr} {s : State} (h : ∀ c, (s.eng.chan c).Sized (s.params.maxW + 2)) (c : Chan) :
    ((effectOf i s).eng.chan c).Sized (s.params.maxW + 2) := by
  cases hi : usesLineBuffers i with
  | false =>
    obtain ⟨h0, h1, h2⟩ := linesKept_effectOf hi s
    have kept : (effectOf i s).eng.chan c = s.eng.chan c := by cases c <;> assumption
    rw [kept]
    exact h c
  | true =>
    cases i with
    | dgrey =>
      by_cases hc : c = .c0
      · subst hc
        exact (dgreyPass_dithers s.params s.regs).sized (w := ditherInit s.params .c0 s.work) (by simp) _ _
      · have kept : (effectOf .dgrey s).eng.chan c = s.eng.chan c := dgreyWork_chan_ne s.params s.regs s.work hc
        rw [kept]
        exact h c
    | dcolor =>
      simp only [effectOf, dcolorEffect]
      split
      · rename_i m _
        exact (dcolorPass_dithers m s.params s.regs c).sized (dcolorInit_chan s.params c s.work) _ _
      · exact h c
    | _ => cases hi

end Sys2Proof.Machine
end

section
/-! The invariant (Sys2Proof.Safety): it holds at reset, each update of the state that a step makes keeps it where its
own condition holds, and so each action of the host, the platform and the engine does. -/

namespace Sys2Proof.Machine

open Sys2Proof.Config (Params)

/-! ## STATUS -/

theorem ErrCode.code_ne_zero (e : ErrCode) : e.code ≠ 0 := by cases e <;> decide

theorem ErrCode.code_le (e : ErrCode) : e.code.toNat ≤ 8 := by cases e <;> decide

/-- The clauses of the invariant that speak of STATUS alone (10_state.md R24, 60_exceptions.md R301). -/
structure StatusInv (t : Status) : Prop where
  errCode : t.errCode = 0 ↔ t.err = false
  errCodeLe : t.errCode.toNat ≤ 8
  busyErr : t.busy = true → t.err = false
  busyDone : t.busy = true → t.done = false

theorem Inv.statusInv {s : State} (h : Inv s) : StatusInv s.status :=
  ⟨h.errCode, h.errCodeLe, h.busyErr, h.busyDone⟩

namespace StatusInv

variable {t : Status}

theorem overrun (h : StatusInv t) : StatusInv { t with overrun := true } := { h with }

theorem accept (h : StatusInv t) (herr : t.err = false) : StatusInv { t with busy := true, done := false } :=
  { h with busyErr := fun _ => herr, busyDone := fun _ => rfl }

theorem complete (h : StatusInv t) (skip : Bool) :
    StatusInv { t with busy := false, done := true, geomSkip := skip } :=
  { h with busyErr := nofun, busyDone := nofun }

theorem raiseError (e : ErrCode) (s : State) : StatusInv (raiseError e s).status where
  errCode := iff_of_false e.code_ne_zero nofun
  errCodeLe := e.code_le
  busyErr := nofun
  busyDone := nofun

theorem reset : StatusInv Status.reset := ⟨by decide, by decide, nofun, nofun⟩

/-- ERR and ERR_CODE are cleared together (10_state.md R24). -/
theorem acknowledge {s : State} (h : StatusInv s.status) (v : Word) : StatusInv (acknowledge v s).status := by
  rw [acknowledge_status]
  cases hv : v.getLsbD 2 with
  | false =>
    exact ⟨by simpa using h.errCode, by simpa using h.errCodeLe, fun hb => by simpa using h.busyErr hb,
      fun hb => by simp [h.busyDone hb]⟩
  | true => exact ⟨by simp, by simp, by simp, fun hb => by simp [h.busyDone hb]⟩

end StatusInv

/-! ## Updates that keep the invariant -/

/-- What a running command writes is memory that exists (20_memory.md R60). -/
theorem lt_of_inRegions_runningWrites {s : State} {a : Nat} (h : InRegions (runningWrites s) a) :
    a < s.params.memSize := by
  by_cases hnone : s.status.busy = false ∨ ∃ e, decode s.cmdWord = .error e
  · rw [runningWrites_eq_nil hnone] at h
    simp [InRegions] at h
  · simp only [not_or, Bool.not_eq_false, not_exists] at hnone
    obtain ⟨hb, hd⟩ := hnone
    cases hi : decode s.cmdWord with
    | error e => exact absurd hi (hd e)
    | ok i =>
      rw [runningWrites_busy hb hi] at h
      exact (inRegions_commandWrites.1 h).2

/-- V7 keeps the write regions of a command that passed its checks in memory (20_memory.md R71). -/
theorem lt_of_inRegions_writeRegions {p : Params} {r : Regs} {i : Instr} (hv : validate p r i = none) {a : Nat}
    (h : InRegions (writeRegions r i) a) : a < p.memSize := by
  obtain ⟨-, -, -, -, hregions, -⟩ := validate_eq_none.1 hv
  obtain ⟨g, hg, hga⟩ := h
  have checked : g ∈ checkedRegions r i := by
    cases i with
    | rot90 | rot270 => exact List.mem_cons_of_mem _ hg
    | _ => exact List.mem_append_right _ hg
  have := hregions g checked
  exact Nat.lt_of_lt_of_le hga.2 this

namespace Inv

variable {s : State}

theorem lines (h : Inv s) (c : Chan) : (s.eng.chan c).Sized (s.params.maxW + 2) := by
  cases c with
  | c0 => exact h.lines0
  | c1 => exact h.lines1
  | c2 => exact h.lines2

/-- A running command means reset is low. -/
theorem inReset_of_busy (h : Inv s) (hb : s.status.busy = true) : s.inReset = false := by
  cases hr : s.inReset with
  | false => rfl
  | true =>
    rw [(h.held hr).1] at hb
    cases hb

/-- The invariant does not speak of the kept word, the pending actions, the last read and the free values. -/
theorem bookkeeping (h : Inv s) (w : Word) (inputs : List HostEvent) (v : Word) (n : Nat) :
    Inv { s with cmdWord := w, inputs := inputs, readData := v, fresh := n } := { h with }

theorem clearRace (h : Inv s) : Inv { s with raced := false } := { h with raced := nofun }

theorem withMem (h : Inv s) {P : Nat → Prop} {m : Mem} (hm : Mem.Via P s.mem m)
    (hP : ∀ a, P a → a < s.params.memSize) : Inv { s with mem := m } :=
  { h with memWf := hm.wf h.memWf, memWithin := hm.within hP h.memWithin }

theorem withEng (h : Inv s) {g : Engine} (hlines : ∀ c, (g.chan c).Sized (s.params.maxW + 2)) (hnb : g.nb < 8) :
    Inv { s with eng := g } :=
  { h with lines0 := hlines .c0, lines1 := hlines .c1, lines2 := hlines .c2, nb := hnb }

theorem withRegs (h : Inv s) (hr : s.inReset = false) {r : Regs} (hplanes : r.planes.toNat ≤ 2) :
    Inv { s with regs := r } :=
  { h with planes := hplanes, held := fun hreset => absurd (hr.symm.trans hreset) nofun }

theorem withStatus (h : Inv s) (hr : s.inReset = false) {t : Status} (ht : StatusInv t)
    (hraced : s.raced = true → t.busy = true) : Inv { s with status := t } :=
  { h with
    errCode := ht.errCode
    errCodeLe := ht.errCodeLe
    busyErr := ht.busyErr
    busyDone := ht.busyDone
    held := fun hreset => absurd (hr.symm.trans hreset) nofun
    raced := hraced }

/-- Only a host access beside a running command is a race (20_memory.md R75). -/
theorem noteRace (h : Inv s) {touches : Bool} (ht : touches = true → s.status.busy = true) :
    Inv (noteRace touches s) :=
  { h with raced := fun hraced => (Bool.or_eq_true_iff.1 hraced).elim h.raced ht }

/-! ## The engine -/

theorem raiseError (h : Inv s) (hr : s.inReset = false) (hraced : s.raced = false) (e : ErrCode) :
    Inv (raiseError e s) :=
  (h.withStatus hr (.raiseError e s) fun hrace => absurd (hraced.symm.trans hrace) nofun).withRegs
    (r := { s.regs with errCmd := s.cmdWord }) hr h.planes

/-- A command keeps the invariant but for the race, which is settled after it. -/
theorem exec (h : Inv s) (hb : s.status.busy = true) {i : Instr} {t : State} (he : exec i s = .next t) :
    Inv { t with raced := false } := by
  have hr := h.inReset_of_busy hb
  obtain ⟨e, -, rfl⟩ | ⟨hv, rfl⟩ := runCommand_cases ((exec_eq i s).symm.trans he)
  · exact h.clearRace.raiseError hr rfl e
  · have done : CompletedWith s _ _ _ := completedWith_effectOf hv
    have hsized : ∀ c, ((effectOf i s).eng.endCommand.chan c).Sized (s.params.maxW + 2) := by
      intro c
      have := effectOf_sized (i := i) h.lines c
      cases c <;> exact this
    have hmem := h.withMem (effectOf_via hv) fun _ => lt_of_inRegions_writeRegions hv
    have heng := hmem.withEng hsized (Nat.zero_lt_succ 7)
    have hregs := heng.withRegs hr (registersAfter_planes s (i := i) h.planes)
    have hstatus := hregs.clearRace.withStatus hr
      (h.statusInv.complete (s.status.geomSkip || skipsWork s.regs i)) nofun
    rw [done]
    exact hstatus

end Inv

/-- Settling a race writes in the command's write regions that exist, and nowhere where there was none. -/
theorem settleRace_via (i : Instr) (s t : State) :
    Mem.Via (InRegions (commandWrites s i)) t.mem (settleRace i s t).mem := by
  cases hr : s.raced with
  | false => rw [settleRace_clean hr]; exact .refl
  | true =>
    obtain ⟨m, n, h, hv⟩ := scramble_other (commandWrites s i) { t with raced := false }
    simp only [settleRace, hr, if_true, h]
    split <;> exact hv

/-- Only a running command reads or writes memory, so only beside one can the host race. -/
theorem busy_of_anyHas_running {s : State} {a : Nat} (h : anyHas (runningReads s ++ runningWrites s) a = true) :
    s.status.busy = true := by
  cases hb : s.status.busy with
  | true => rfl
  | false => simp [runningReads, runningWrites, hb, anyHas] at h

@[simp] theorem writeReg_planes (r : Regs) (v : Word) (g : PortReg) : (writeReg r v g).planes = r.planes := by
  cases g <;> rfl

/-- A command touches neither the reset input nor the note of a race. -/
theorem exec_inReset_raced {i : Instr} {s t : State} (h : exec i s = .next t) :
    t.inReset = s.inReset ∧ t.raced = s.raced := by
  obtain ⟨e, -, rfl⟩ | ⟨-, hdone⟩ := exec_cases h
  · exact ⟨rfl, rfl⟩
  · exact ⟨(congrArg State.inReset hdone :), (congrArg State.raced hdone :)⟩

namespace Inv

variable {s t : State}

theorem settleRace {i : Instr} (h : Inv { t with raced := false }) (hp : t.params = s.params)
    (hr : t.inReset = false) (hraced : t.raced = s.raced) : Inv (settleRace i s t) := by
  cases hs : s.raced with
  | false =>
    rw [settleRace_clean hs]
    have unraced : ({ t with raced := false } : State) = t := by rw [← hraced.trans hs]
    rwa [unraced] at h
  | true =>
    obtain ⟨v, k, m, hu, -, -⟩ := settleRace_raced (i := i) (t := t) hs
    have hvia := settleRace_via i s t
    rw [hu] at hvia ⊢
    have hmem := h.withMem hvia fun a ha => hp ▸ (inRegions_commandWrites.1 ha).2
    exact (hmem.withRegs (r := { t.regs with result := v }) hr h.planes).bookkeeping _ _ _ k

theorem runAccepted (h : Inv s) (hb : s.status.busy = true) (ht : runAccepted s = .next t) : Inv t := by
  have hr := h.inReset_of_busy hb
  cases hd : decode s.cmdWord with
  | error e =>
    rw [runAccepted_illegal hd] at ht
    cases ht
    exact h.clearRace.raiseError hr rfl _
  | ok i =>
    obtain ⟨u, hu, -⟩ := exec_ends i s
    rw [runAccepted_next hd hu] at ht
    cases ht
    obtain ⟨hreset, hraced⟩ := exec_inReset_raced hu
    exact (h.exec hb hu).settleRace (exec_params hu) (hreset.trans hr) hraced

theorem engineStep (h : Inv s) (ht : engineStep s = .next t) : Inv t := by
  cases hb : s.status.busy with
  | false => rw [engineStep_idle hb] at ht; cases ht; exact h
  | true => rw [engineStep_busy hb] at ht; exact h.runAccepted hb ht

/-! ## The host and the platform -/

theorem setOverrun (h : Inv s) (hr : s.inReset = false) : Inv (setOverrun s) :=
  h.withStatus hr h.statusInv.overrun h.raced

theorem accept (h : Inv s) (hr : s.inReset = false) (herr : s.status.err = false) (w : Word) : Inv (accept w s) :=
  (h.clearRace.withStatus hr (h.statusInv.accept herr) nofun).bookkeeping w _ _ _

theorem writePort (h : Inv s) (hr : s.inReset = false) (g : PortReg) (v : Word) : Inv (writePort g v s) := by
  by_cases hstatus : g = .status
  · subst hstatus
    exact h.withStatus hr (h.statusInv.acknowledge v) h.raced
  cases hb : s.status.busy with
  | true =>
    rw [writePort_of_busy hb hstatus]
    exact h.setOverrun hr
  | false =>
    by_cases hcmd : g = .cmd
    · subst hcmd
      cases herr : s.status.err with
      | true => simpa [Machine.writePort, hb, herr] using h.setOverrun hr
      | false => simpa [Machine.writePort, hb, herr] using h.accept hr herr v
    · rw [writePort_idle hb hstatus hcmd]
      exact h.withRegs hr (by rw [writeReg_planes]; exact h.planes)

theorem hostRegWrite (h : Inv s) {o : BitVec 11} {w : AccessWidth} {v : Word} (ht : hostRegWrite o w v s = .next t) :
    Inv t := by
  unfold Machine.hostRegWrite at ht
  split at ht
  · cases ht
    cases hr : s.inReset with
    | true => exact h
    | false => exact h.writePort hr _ v
  · cases ht

theorem hostRegRead (h : Inv s) {o : BitVec 11} {w : AccessWidth} (ht : hostRegRead o w s = .next t) : Inv t := by
  unfold Machine.hostRegRead at ht
  split at ht
  · cases ht
    split <;> exact h.bookkeeping _ _ _ _
  · cases ht

theorem hostMemWrite (h : Inv s) {a : Word} {v : Byte} (ht : hostMemWrite a v s = .next t) : Inv t := by
  unfold Machine.hostMemWrite at ht
  split at ht
  · rename_i ha
    cases ht
    have hmem := h.withMem (.one (P := fun b => b < s.params.memSize) ha v) fun _ hb => hb
    exact hmem.noteRace busy_of_anyHas_running
  · cases ht

theorem hostMemRead (h : Inv s) {a : Word} (ht : hostMemRead a s = .next t) : Inv t := by
  unfold Machine.hostMemRead at ht
  split at ht
  · cases ht
    split
    · rename_i htouch
      have touches : anyHas (runningReads s ++ runningWrites s) a.toNat = true := by
        rw [anyHas, List.any_append]
        exact Bool.or_eq_true_iff.2 (.inr htouch)
      have running : s.status.busy = true := busy_of_anyHas_running touches
      exact (h.bookkeeping s.cmdWord s.inputs _ _).noteRace fun _ => running
    · exact h.bookkeeping _ _ _ _
  · cases ht

theorem assertReset (h : Inv s) : Inv (assertReset s) := by
  have hvia := assertReset_mem s
  obtain ⟨m, n, heq⟩ := assertReset_eq s
  rw [heq] at hvia ⊢
  have hmem := h.withMem hvia fun _ => lt_of_inRegions_runningWrites
  exact
    { hmem with
      errCode := StatusInv.reset.errCode
      errCodeLe := StatusInv.reset.errCodeLe
      busyErr := StatusInv.reset.busyErr
      busyDone := StatusInv.reset.busyDone
      planes := Nat.zero_le 2
      held := fun _ => ⟨rfl, rfl⟩
      raced := nofun }

theorem releaseReset (h : Inv s) : Inv (releaseReset s) := { h with held := nofun }

theorem hostStep (h : Inv s) {e : HostEvent} (ht : hostStep e s = .next t) : Inv t := by
  cases e with
  | regWrite o w v => exact h.hostRegWrite ht
  | regRead o w => exact h.hostRegRead ht
  | memWrite a v => exact h.hostMemWrite ht
  | memRead a => exact h.hostMemRead ht
  | assertReset => cases ht; exact h.assertReset
  | releaseReset => cases ht; exact h.releaseReset
  | engineTurn => exact h.engineStep ht

/-! ## One step -/

theorem powerOn {p : Params} (hp : p.Legal) : Inv (State.powerOn p) where
  memWf := Mem.wf_nil
  memWithin := Mem.within_nil _
  params := hp
  lines0 := Channel.zero_sized p.maxW
  lines1 := Channel.zero_sized p.maxW
  lines2 := Channel.zero_sized p.maxW
  nb := Nat.zero_lt_succ 7
  errCode := StatusInv.reset.errCode
  errCodeLe := StatusInv.reset.errCodeLe
  busyErr := StatusInv.reset.busyErr
  busyDone := StatusInv.reset.busyDone
  planes := Nat.zero_le 2
  held := nofun
  raced := nofun

theorem step (h : Inv s) (ht : step s = .next t) : Inv t := by
  cases hi : s.inputs with
  | nil => rw [step_nil hi] at ht; exact h.engineStep ht
  | cons e rest => rw [step_cons hi] at ht; exact (h.bookkeeping _ rest _ _).hostStep ht

end Inv

end Sys2Proof.Machine

namespace Sys2Proof.Proofs

open Sys2Proof.Machine

/-- Settles O25: right after reset the parameters are legal, memory is empty and the registers, STATUS and the internal
state hold their reset values. -/
theorem invHoldsAtReset : Obligations.InvHoldsAtReset := Inv.powerOn (p := Config.params) (by decide)

/-- Settles O26: the host's action, the platform's or the engine's turn is made of updates that each keep the
invariant. -/
theorem everyStepKeepsTheInvariant : Obligations.EveryStepKeepsTheInvariant := fun _ _ h ht => h.step ht

end Sys2Proof.Proofs
end
